-- ==== Sys2Proof/Word.lean ====
section
/-! DEFINITION. Words: the 64-bit sample word of R11 and R64, and the stereo pair `REG[c]` of R16. -/

namespace Sys2Proof

/-- One `f64` word (R11): an IEEE 754 binary64 value, held as its 64-bit pattern.
`x.bits` is `bits(x)` of R15 and `F64.mk b` is `f64of(b)`.  A structure and not a bare bit vector, so that the
integer operations of `BitVec` cannot be applied to it by mistake. -/
structure F64 where
  bits : BitVec 64
  deriving DecidableEq, Repr, Inhabited

/-- A channel index `c` of R16: L = 0, R = 1. -/
inductive Channel where
  | left
  | right
  deriving DecidableEq, Repr, Inhabited

/-- A register with one copy per channel, `REG[L]` and `REG[R]` of R16. -/
structure Stereo (α : Type) where
  l : α
  r : α
  deriving DecidableEq, Repr, Inhabited

/-- `REG[c]`. -/
def Stereo.at {α : Type} (p : Stereo α) : Channel → α
  | .left => p.l
  | .right => p.r

end Sys2Proof
end

