-- ==== Sys2Proof/Syntax.lean ====
section
/-! DEFINITION. The commands of the opcode table (30_encoding.md R91): one constructor per row.

A command is a command word `CW` and a 64-bit operand `OPD` (R80).  A constructor holds what its format of R82 leaves
free: the fields `CH` and `ENCSEL` and the operand for CONFIGURE, the frame count for PROCESS, the operand for a SETP;
nothing for a GETP, whose operand is ignored (R240).  The operand is kept raw: a value outside a knob's range is an
error of the command, not of its encoding (R89).  The input block `SIN` is not part of the instruction (log 3). -/

namespace Sys2Proof

inductive Instr where
  /-- CONFIGURE (R221): `ch = AUX[7:0]`, `encsel = AUX[15:8]`, `opd = bits(sampleRate)`. -/
  | configure (ch encsel : BitVec 8) (opd : BitVec 64)
  /-- PROCESS (R205): `n` is the frame count. -/
  | process (n : BitVec 64)
  | setpMasterEn (opd : BitVec 64)
  | setpCompEn (opd : BitVec 64)
  | setpCompRatio (opd : BitVec 64)
  | setpBassEn (opd : BitVec 64)
  | setpBassStrength (opd : BitVec 64)
  | setpBassFreq (opd : BitVec 64)
  | setpEqEn (opd : BitVec 64)
  | setpEqBand0 (opd : BitVec 64)
  | setpEqBand1 (opd : BitVec 64)
  | setpEqBand2 (opd : BitVec 64)
  | setpEqBand3 (opd : BitVec 64)
  | setpEqBand4 (opd : BitVec 64)
  | setpEqBand5 (opd : BitVec 64)
  | setpEqLoudEn (opd : BitVec 64)
  | setpEqLoudRef (opd : BitVec 64)
  | setpVirtEn (opd : BitVec 64)
  | setpVirtStrength (opd : BitVec 64)
  | getpMasterEn
  | getpCompEn
  | getpCompRatio
  | getpBassEn
  | getpBassStrength
  | getpBassFreq
  | getpEqEn
  | getpEqBand0
  | getpEqBand1
  | getpEqBand2
  | getpEqBand3
  | getpEqBand4
  | getpEqBand5
  | getpEqLoudEn
  | getpEqLoudRef
  | getpVirtEn
  | getpVirtStrength
  deriving DecidableEq, Repr, Inhabited

/-- One host transaction on the command port (R80): the command word, the operand, and the input block of a PROCESS
(left word first, R61; empty for every other command). -/
structure Command where
  cw : BitVec 32
  opd : BitVec 64
  sin : List F64
  deriving DecidableEq, Repr, Inhabited

end Sys2Proof
end

