-- ==== Sys2Proof/Decode.lean ====
section
/-! DEFINITION. Decoding and encoding of commands (30_encoding.md R81 to R91).

A command word is `OPC[31:24] PID[23:16] AUX[15:0]` (R81), the operand 64 bits beside it (R80).  `decode` is total over
all words and rejects by name (R89, R90); it never looks at the operand to do so.  Where a transport serializes a
command, each word goes little-endian (R65), the command word before the operand (log 3): `decodeBytes`. -/

namespace Sys2Proof

/-- Why a command word is illegal, one reason per case of R89. -/
inductive DecodeError where
  /-- `OPC` is reserved (R83). -/
  | reservedOpc
  /-- `PID` is reserved on a SETP or GETP (R84). -/
  | reservedPid
  /-- `PID ≠ 0` on CONFIGURE or PROCESS. -/
  | pidNotZero
  /-- `AUX ≠ 0` on a SETP, a GETP or PROCESS. -/
  | auxNotZero
  /-- A byte string that does not hold exactly a command word and an operand. -/
  | badLength
  deriving DecidableEq, Repr, Inhabited

/-- `v[hi:lo]` (R10), the field of `n` bits from bit `lo` up. -/
def bitField {w : Nat} (v : BitVec w) (lo n : Nat) : BitVec n := v.extractLsb' lo n

/-- `OPC` (R81). -/
def opcOf (cw : BitVec 32) : BitVec 8 := bitField cw 24 8
/-- `PID` (R81). -/
def pidOf (cw : BitVec 32) : BitVec 8 := bitField cw 16 8
/-- `AUX` (R81). -/
def auxOf (cw : BitVec 32) : BitVec 16 := bitField cw 0 16
/-- `CH = AUX[7:0]` (R86). -/
def chOf (cw : BitVec 32) : BitVec 8 := bitField cw 0 8
/-- `ENCSEL = AUX[15:8]` (R86). -/
def encselOf (cw : BitVec 32) : BitVec 8 := bitField cw 8 8

/-- The SETP of a PID (R84); `none` for a reserved one. -/
def setpOf (pid : BitVec 8) (opd : BitVec 64) : Option Instr :=
  match pid.toNat with
  | 0x00 => some (.setpMasterEn opd)
  | 0x10 => some (.setpCompEn opd)
  | 0x11 => some (.setpCompRatio opd)
  | 0x20 => some (.setpBassEn opd)
  | 0x21 => some (.setpBassStrength opd)
  | 0x22 => some (.setpBassFreq opd)
  | 0x30 => some (.setpEqEn opd)
  | 0x31 => some (.setpEqBand0 opd)
  | 0x32 => some (.setpEqBand1 opd)
  | 0x33 => some (.setpEqBand2 opd)
  | 0x34 => some (.setpEqBand3 opd)
  | 0x35 => some (.setpEqBand4 opd)
  | 0x36 => some (.setpEqBand5 opd)
  | 0x37 => some (.setpEqLoudEn opd)
  | 0x38 => some (.setpEqLoudRef opd)
  | 0x40 => some (.setpVirtEn opd)
  | 0x41 => some (.setpVirtStrength opd)
  | _ => none

/-- The GETP of a PID (R84); `none` for a reserved one. -/
def getpOf (pid : BitVec 8) : Option Instr :=
  match pid.toNat with
  | 0x00 => some .getpMasterEn
  | 0x10 => some .getpCompEn
  | 0x11 => some .getpCompRatio
  | 0x20 => some .getpBassEn
  | 0x21 => some .getpBassStrength
  | 0x22 => some .getpBassFreq
  | 0x30 => some .getpEqEn
  | 0x31 => some .getpEqBand0
  | 0x32 => some .getpEqBand1
  | 0x33 => some .getpEqBand2
  | 0x34 => some .getpEqBand3
  | 0x35 => some .getpEqBand4
  | 0x36 => some .getpEqBand5
  | 0x37 => some .getpEqLoudEn
  | 0x38 => some .getpEqLoudRef
  | 0x40 => some .getpVirtEn
  | 0x41 => some .getpVirtStrength
  | _ => none

/-- A decoded knob command, or the rejection of its reserved PID. -/
def orReservedPid (i : Option Instr) : Except DecodeError Instr :=
  match i with
  | some i => .ok i
  | none => .error .reservedPid

/-- `decode(CW)` (R90), with the operand carried along. -/
def decode (cw : BitVec 32) (opd : BitVec 64) : Except DecodeError Instr :=
  match (opcOf cw).toNat with
  | 0x01 => if pidOf cw = 0#8 then .ok (.configure (chOf cw) (encselOf cw) opd) else .error .pidNotZero
  | 0x02 => if auxOf cw = 0#16 then orReservedPid (setpOf (pidOf cw) opd) else .error .auxNotZero
  | 0x03 => if auxOf cw = 0#16 then orReservedPid (getpOf (pidOf cw)) else .error .auxNotZero
  | 0x04 =>
    if pidOf cw ≠ 0#8 then .error .pidNotZero
    else if auxOf cw ≠ 0#16 then .error .auxNotZero
    else .ok (.process opd)
  | _ => .error .reservedOpc

/-! ### Encoding -/

/-- A command word from its fields (R81). -/
def packWord (opc pid : BitVec 8) (aux : BitVec 16) : BitVec 32 := opc ++ pid ++ aux

/-- The words of an instruction (R82, R91): command word and operand.  A GETP's operand is ignored (R240): 0. -/
def encode : Instr → BitVec 32 × BitVec 64
  | .configure ch encsel opd => (packWord 0x01#8 0x00#8 (encsel ++ ch), opd)
  | .process n => (packWord 0x04#8 0x00#8 0#16, n)
  | .setpMasterEn opd => (packWord 0x02#8 0x00#8 0#16, opd)
  | .setpCompEn opd => (packWord 0x02#8 0x10#8 0#16, opd)
  | .setpCompRatio opd => (packWord 0x02#8 0x11#8 0#16, opd)
  | .setpBassEn opd => (packWord 0x02#8 0x20#8 0#16, opd)
  | .setpBassStrength opd => (packWord 0x02#8 0x21#8 0#16, opd)
  | .setpBassFreq opd => (packWord 0x02#8 0x22#8 0#16, opd)
  | .setpEqEn opd => (packWord 0x02#8 0x30#8 0#16, opd)
  | .setpEqBand0 opd => (packWord 0x02#8 0x31#8 0#16, opd)
  | .setpEqBand1 opd => (packWord 0x02#8 0x32#8 0#16, opd)
  | .setpEqBand2 opd => (packWord 0x02#8 0x33#8 0#16, opd)
  | .setpEqBand3 opd => (packWord 0x02#8 0x34#8 0#16, opd)
  | .setpEqBand4 opd => (packWord 0x02#8 0x35#8 0#16, opd)
  | .setpEqBand5 opd => (packWord 0x02#8 0x36#8 0#16, opd)
  | .setpEqLoudEn opd => (packWord 0x02#8 0x37#8 0#16, opd)
  | .setpEqLoudRef opd => (packWord 0x02#8 0x38#8 0#16, opd)
  | .setpVirtEn opd => (packWord 0x02#8 0x40#8 0#16, opd)
  | .setpVirtStrength opd => (packWord 0x02#8 0x41#8 0#16, opd)
  | .getpMasterEn => (packWord 0x03#8 0x00#8 0#16, 0#64)
  | .getpCompEn => (packWord 0x03#8 0x10#8 0#16, 0#64)
  | .getpCompRatio => (packWord 0x03#8 0x11#8 0#16, 0#64)
  | .getpBassEn => (packWord 0x03#8 0x20#8 0#16, 0#64)
  | .getpBassStrength => (packWord 0x03#8 0x21#8 0#16, 0#64)
  | .getpBassFreq => (packWord 0x03#8 0x22#8 0#16, 0#64)
  | .getpEqEn => (packWord 0x03#8 0x30#8 0#16, 0#64)
  | .getpEqBand0 => (packWord 0x03#8 0x31#8 0#16, 0#64)
  | .getpEqBand1 => (packWord 0x03#8 0x32#8 0#16, 0#64)
  | .getpEqBand2 => (packWord 0x03#8 0x33#8 0#16, 0#64)
  | .getpEqBand3 => (packWord 0x03#8 0x34#8 0#16, 0#64)
  | .getpEqBand4 => (packWord 0x03#8 0x35#8 0#16, 0#64)
  | .getpEqBand5 => (packWord 0x03#8 0x36#8 0#16, 0#64)
  | .getpEqLoudEn => (packWord 0x03#8 0x37#8 0#16, 0#64)
  | .getpEqLoudRef => (packWord 0x03#8 0x38#8 0#16, 0#64)
  | .getpVirtEn => (packWord 0x03#8 0x40#8 0#16, 0#64)
  | .getpVirtStrength => (packWord 0x03#8 0x41#8 0#16, 0#64)

/-! ### Bytes on a transport (R65) -/

/-- The `n` bytes of a word, the byte of bits [7:0] first. -/
def leBytes : Nat → Nat → List (BitVec 8)
  | 0, _ => []
  | n + 1, v => BitVec.ofNat 8 v :: leBytes n (v / 256)

/-- The number whose bytes these are, the first the least significant. -/
def leValue : List (BitVec 8) → Nat
  | [] => 0
  | b :: rest => b.toNat + 256 * leValue rest

/-- A command's 12 bytes, each word little-endian (R65).  DESIGN CHOICE (log 3): the command word first, then the operand,
nothing between. -/
def commandBytes (cw : BitVec 32) (opd : BitVec 64) : List (BitVec 8) := leBytes 4 cw.toNat ++ leBytes 8 opd.toNat

/-- The bytes of an instruction as a transport carries them. -/
def encodeBytes (i : Instr) : List (BitVec 8) := commandBytes (encode i).1 (encode i).2

/-- A block of sample words as a transport carries it: each little-endian (R65), in the order of R61. -/
def blockBytes (block : List F64) : List (BitVec 8) := block.flatMap (fun x => leBytes 8 x.bits.toNat)

/-- A response's bytes, each word little-endian (R65).  DESIGN CHOICE (log 3): `STATUS`'s byte first, then `RES`'s eight,
nothing between; the spec orders the bytes of a word and not the two words. -/
def responseBytes (status : BitVec 8) (res : BitVec 64) : List (BitVec 8) := leBytes 1 status.toNat ++ leBytes 8 res.toNat

/-- Decode a command from its bytes, total on any byte string. -/
def decodeBytes (bytes : List (BitVec 8)) : Except DecodeError Instr :=
  if bytes.length = 12 then
    decode (BitVec.ofNat 32 (leValue (bytes.take 4))) (BitVec.ofNat 64 (leValue (bytes.drop 4)))
  else .error .badLength

/-- The command word and the operand whose bits are `w`, numbered as the opcode table numbers them: the command word is
bits 31..0, the operand goes on from bit 32; bits from `nbits` up are 0. -/
def tableWords (nbits w : Nat) : BitVec 32 × BitVec 64 :=
  let v := w % 2 ^ nbits
  (BitVec.ofNat 32 v, BitVec.ofNat 64 (v / 2 ^ 32))

/-- The instruction the decoder reads from the command whose bits are `w`, laid out in its bytes. -/
def decodeTableWord (nbits w : Nat) : Option Instr :=
  match decodeBytes (commandBytes (tableWords nbits w).1 (tableWords nbits w).2) with
  | .ok i => some i
  | .error _ => none

end Sys2Proof
end

