-- ==== Sys2Proof/Config.lean ====
section
/-! DEFINITION. The configuration record (R9, R292): every parameter the spec leaves open, fixed when an instance is
made and never changed.  They are arguments of the model, not state: every operation that needs one takes a `Config`.

`Config.free` is the record of the machine at hand, and it is opaque: nothing can be proved of a field of it, so a
statement about the machine holds for every choice the spec admits (log 5, 7).  `Config.nanBits` is what IEEE 754
leaves open of a NaN result (log 6).  The numeric constants DSPM does state (R8) are in Machine/Constants.lean. -/

namespace Sys2Proof

/-- The six terms of a filter design before `normalise` (R103): three of the numerator, three of the denominator. -/
structure DesignTerms where
  n0 : F64
  n1 : F64
  n2 : F64
  d0 : F64
  d1 : F64
  d2 : F64
  deriving DecidableEq, Repr, Inhabited

/-- `BQ_DESIGN` (R9, D20, U1): the three design equations. -/
inductive BqDesign where
  /-- The equations of R104, R105 and R106, the spec's default. -/
  | cookbook
  /-- Another set of equations: low-pass `f rate Q`, band-pass `f rate BW`, high-shelf `f rate p dBGain overallDb`. -/
  | other (lowpass bandpass : F64 → F64 → F64 → DesignTerms)
      (highshelf : F64 → F64 → F64 → F64 → F64 → DesignTerms)
  deriving Inhabited

/-- `SHELF_PARAM_MODE` (R9, R101): how the high shelf's fifth argument enters `alpha`. -/
inductive ShelfParamMode where
  /-- The default of R9: the argument is the shelf slope. -/
  | slope
  /-- The argument is a quality factor. -/
  | q
  deriving DecidableEq, Repr, Inhabited

/-- `VIRT_SIDE_MODE` (R9, R195): how the side signal is reduced. -/
inductive VirtSideMode where
  /-- The default of R9: the side passes through the shelf. -/
  | filter
  /-- The shelf's output is subtracted from the side. -/
  | subtract
  deriving DecidableEq, Repr, Inhabited

/-- Six values, one per equalizer band (R171, R174). -/
structure BandTable where
  b0 : F64
  b1 : F64
  b2 : F64
  b3 : F64
  b4 : F64
  b5 : F64
  deriving DecidableEq, Repr, Inhabited

/-- The reset values `RST_*` of R9 and R291: what a new instance's knobs and loudness estimate start from. -/
structure ResetKnobs where
  /-- `RST_MASTER_EN` (R21). -/
  masterEn : Bool
  /-- `RST_COMP_RATIO` (R30). -/
  compRatio : F64
  /-- `RST_BASS_STRENGTH` (R30). -/
  bassStrength : BitVec 64
  /-- `RST_EQ_LOUD_REF` (R30). -/
  eqLoudRef : F64
  /-- `RST_EQ_LOUD` (R34). -/
  eqLoud : F64
  /-- `RST_VIRT_STRENGTH` (R30). -/
  virtStrength : BitVec 64
  deriving DecidableEq, Repr, Inhabited

/-- The configuration record of R292, one field per open parameter of R9. -/
structure Config where
  /-- `fsin`, `fcos`, `fsinh`, `fpow10`, `flog10` of R14 where the named properties do not fix them (Machine/Elementary.lean). -/
  sin : F64 → F64
  cos : F64 → F64
  sinh : F64 → F64
  pow10 : F64 → F64
  log10 : F64 → F64
  /-- `BQ_DESIGN` (U1). -/
  bqDesign : BqDesign
  /-- `SHELF_PARAM_MODE` (U1). -/
  shelfParamMode : ShelfParamMode
  /-- `COMP_BP_BW`, octaves (U3). -/
  compBpBw : F64
  /-- `COMP_EPS` (U4). -/
  compEps : F64
  /-- `COMP_SOFTEN` (U5); the default is `softenQuadratic` of Machine/Compress.lean. -/
  compSoften : F64 → F64
  /-- `BASS_INTERVAL`, samples (U6). -/
  bassInterval : BitVec 32
  /-- `EQ_SHELF_SLOPE` (U7). -/
  eqShelfSlope : F64
  /-- `EQ_V20[0..5]`, dB (U8). -/
  eqV20 : BandTable
  /-- `EQ_V100[0..5]`, dB (U8). -/
  eqV100 : BandTable
  /-- `VIRT_SIDE_MODE` (U9). -/
  virtSideMode : VirtSideMode
  /-- `DLY_MAX`, words; `none` is a model that fixes none (U10). -/
  dlyMax : Option Nat
  /-- `BLOCK_MAX`, frames; `none` is a model that fixes none (U10). -/
  blockMax : Option Nat
  /-- `RST_*` (U11). -/
  rst : ResetKnobs
  deriving Inhabited

/-- DESIGN CHOICE (log 7), safe: the open parameters of the machine at hand, a free value. -/
opaque Config.free : Config

/-- The five floating-point operations that can answer a NaN (R12). -/
inductive FloatOp where
  | add
  | sub
  | mul
  | div
  | sqrt
  deriving DecidableEq, Repr, Inhabited

/-- DESIGN CHOICE (log 6), safe: the sign and the payload of the quiet NaN that an operation answers, which R12 leaves
to IEEE 754 and IEEE 754 leaves open.  A free value, a function of the operation and its operands. -/
opaque Config.nanBits : FloatOp → F64 → F64 → BitVec 64

end Sys2Proof
end

