-- ==== Sys2Proof/Machine/Float64.lean ====
section
/-! DEFINITION. IEEE 754 binary64 arithmetic on bit patterns (R12), the conversions of R15 and the saturating register
writes of R13.

A finite word stands for `(-1)^sign * sig * 2^expo` with `sig` a natural number.  Every operation computes its exact
result with integers (for the quotient and the root: enough bits of it and one sticky bit) and rounds once, in
`roundPack`, to nearest with ties to even, subnormals kept and overflow to infinity.  Nothing traps and no flag exists. -/

namespace Sys2Proof.Machine

/-- The pattern of +infinity without its sign. -/
def infMag : Nat := 0x7FF0000000000000

/-- The sign bit. -/
def fsign (x : F64) : Bool := x.bits.msb

/-- All bits but the sign. -/
def fmag (x : F64) : Nat := x.bits.toNat % 2 ^ 63

/-- The word with the given sign and magnitude bits. -/
def ofParts (neg : Bool) (mag : Nat) : F64 :=
  ⟨BitVec.ofNat 64 (if neg then 2 ^ 63 + mag else mag)⟩

def isNaN (x : F64) : Bool := decide (infMag < fmag x)
def isInf (x : F64) : Bool := decide (fmag x = infMag)
def isFinite (x : F64) : Bool := decide (fmag x < infMag)
def isZero (x : F64) : Bool := decide (fmag x = 0)

def posZero : F64 := ⟨0#64⟩
def negZero : F64 := ⟨0x8000000000000000#64⟩
def fone : F64 := ⟨0x3FF0000000000000#64⟩

/-- The significand of a finite word, with its leading bit. -/
def fsig (x : F64) : Nat :=
  if fmag x / 2 ^ 52 = 0 then fmag x else 2 ^ 52 + fmag x % 2 ^ 52

/-- The exponent of the significand's last bit: a finite word is `± fsig * 2 ^ fexpo`. -/
def fexpo (x : F64) : Int := (max (fmag x / 2 ^ 52) 1 : Nat) - 1075

/-- The signed significand. -/
def fsigned (x : F64) : Int := if fsign x then -(fsig x : Int) else (fsig x : Int)

/-- Drop the `k` low bits of `m`, rounding to nearest, ties to even (R12). -/
def roundShift (m k : Nat) : Nat :=
  let d := m / 2 ^ k
  let rest := 2 * (m % 2 ^ k)
  if 2 ^ k < rest ∨ (rest = 2 ^ k ∧ d % 2 = 1) then d + 1 else d

/-- The word nearest to `(-1)^neg * m * 2^e`, ties to even (R12).  `q` is the exponent of the last bit kept; the
magnitude `(q + 1074) * 2^52 + r` is the encoding for normal and subnormal results alike, and a carry out of the
significand moves the exponent by itself. -/
def roundPack (neg : Bool) (m : Nat) (e : Int) : F64 :=
  if m = 0 then ofParts neg 0
  else
    let q : Int := max (e + (Nat.log2 m : Int) - 52) (-1074)
    let r : Nat := if q ≤ e then m * 2 ^ (e - q).toNat else roundShift m (q - e).toNat
    ofParts neg (min ((q + 1074).toNat * 2 ^ 52 + r) infMag)

/-- A NaN result: quiet, its sign and payload free (log 6). -/
def nanResult (op : FloatOp) (x y : F64) : F64 :=
  ⟨(Config.nanBits op x y &&& 0x8007FFFFFFFFFFFF#64) ||| 0x7FF8000000000000#64⟩

/-- Sign flip, exact (R194 "sign flip, exact"), on a NaN too (log 19). -/
def fneg (x : F64) : F64 := ⟨x.bits ^^^ 0x8000000000000000#64⟩

/-- The exact sum of two finite words, rounded once. -/
def addFinite (x y : F64) : F64 :=
  let e := min (fexpo x) (fexpo y)
  let t : Int := fsigned x * 2 ^ (fexpo x - e).toNat + fsigned y * 2 ^ (fexpo y - e).toNat
  if t = 0 then ofParts (fsign x && fsign y) 0
  else roundPack (decide (t < 0)) t.natAbs e

/-- The sum of any two words, answering `nan` where IEEE 754 answers a NaN. -/
def addWith (nan x y : F64) : F64 :=
  if isNaN x || isNaN y then nan
  else if isInf x then (if isInf y && (fsign x != fsign y) then nan else x)
  else if isInf y then y
  else addFinite x y

/-- `x + y` (R12). -/
def fadd (x y : F64) : F64 := addWith (nanResult .add x y) x y

/-- `x − y` (R12). -/
def fsub (x y : F64) : F64 := addWith (nanResult .sub x y) x (fneg y)

/-- `x × y` (R12). -/
def fmul (x y : F64) : F64 :=
  let neg := fsign x != fsign y
  if isNaN x || isNaN y then nanResult .mul x y
  else if isInf x || isInf y then
    (if isZero x || isZero y then nanResult .mul x y else ofParts neg infMag)
  else roundPack neg (fsig x * fsig y) (fexpo x + fexpo y)

/-- `x ÷ y` (R12): the quotient's integer part to at least 66 bits, and a sticky bit. -/
def fdiv (x y : F64) : F64 :=
  let neg := fsign x != fsign y
  if isNaN x || isNaN y then nanResult .div x y
  else if isInf x then (if isInf y then nanResult .div x y else ofParts neg infMag)
  else if isInf y then ofParts neg 0
  else if isZero y then (if isZero x then nanResult .div x y else ofParts neg infMag)
  else
    let m := fsig x * 2 ^ 120
    let sticky := if m % fsig y = 0 then 0 else 1
    roundPack neg (2 * (m / fsig y) + sticky) (fexpo x - fexpo y - 121)

/-- The integer square root, bit by bit from bit `k - 1`: the greatest `r` with `r * r ≤ m`, for `m < 4 ^ k`. -/
def isqrt (m : Nat) : Nat → Nat → Nat
  | 0, r => r
  | k + 1, r => isqrt m k (if (r + 2 ^ k) * (r + 2 ^ k) ≤ m then r + 2 ^ k else r)

/-- `fsqrt(x)`: the correctly rounded square root (R12). -/
def fsqrt (x : F64) : F64 :=
  if isNaN x then nanResult .sqrt x x
  else if isZero x then x
  else if fsign x then nanResult .sqrt x x
  else if isInf x then x
  else
    let odd := fexpo x % 2
    let m := fsig x * 2 ^ odd.toNat * 4 ^ 60
    let r := isqrt m 90 0
    let sticky := if r * r = m then 0 else 1
    roundPack false (2 * r + sticky) ((fexpo x - odd) / 2 - 61)

/-- The order of non-NaN words, both zeros at 0. -/
def fkey (x : F64) : Int := if fsign x then -(fmag x : Int) else (fmag x : Int)

/-- IEEE 754 comparisons (R12): false with a NaN. -/
def flt (x y : F64) : Bool := !isNaN x && !isNaN y && decide (fkey x < fkey y)
def fle (x y : F64) : Bool := !isNaN x && !isNaN y && decide (fkey x ≤ fkey y)
def fgt (x y : F64) : Bool := flt y x
def fge (x y : F64) : Bool := fle y x
def feq (x y : F64) : Bool := !isNaN x && !isNaN y && decide (fkey x = fkey y)
/-- `≠` is true with a NaN (R12). -/
def fne (x y : F64) : Bool := !feq x y

/-! ### Integers (R13) and conversions (R15) -/

def i64Max : Int := 2 ^ 63 - 1
def i64Min : Int := -(2 ^ 63)

/-- The `i64` range, as a number. -/
def clampI64 (v : Int) : Int := max i64Min (min i64Max v)

/-- A write to an `i64` register saturates (R13). -/
def satI64 (v : Int) : BitVec 64 := BitVec.ofInt 64 (clampI64 v)

/-- A write to an unsigned register of `w` bits saturates to `[0, 2^w − 1]`: R13 for `u64`; DEDUCED for `u32` and `u8`
from R303 "saturate at the bounds of their containers" (log 10). -/
def satU (w : Nat) (v : Int) : BitVec w := BitVec.ofNat w (min v.toNat (2 ^ w - 1))

/-- `i2d(n)`: the word nearest the integer `n`, ties to even (R15). -/
def i2d (n : Int) : F64 := roundPack (decide (n < 0)) n.natAbs 0

/-- `d2i(x)`: truncated toward zero, saturated to the `i64` range; NaN gives 0 (R15). -/
def d2i (x : F64) : Int :=
  if isNaN x then 0
  else if isInf x then (if fsign x then i64Min else i64Max)
  else
    let t : Nat := if 0 ≤ fexpo x then fsig x * 2 ^ (fexpo x).toNat else fsig x / 2 ^ (-fexpo x).toNat
    clampI64 (if fsign x then -(t : Int) else (t : Int))

/-- `rnd(x) = d2i(x + 0.5)`, round half up (R15). -/
def rnd (x : F64) : Int := d2i (fadd x ⟨0x3FE0000000000000#64⟩)

end Sys2Proof.Machine
end

