-- ==== Sys2Proof/Machine/Constants.lean ====
section
/-! DEFINITION. The constants of R8 in one record, what the rules compute from them, the defaults of `RST_*` (R9, R291),
the status codes (R270) and the configuration record of the machine at hand.  A decimal literal stands for the nearest
binary64 word (D7); its pattern is written out. -/

namespace Sys2Proof.Machine

/-! ### Plain numbers of the pseudocode -/

/-- 0.5 -/
def half : F64 := ⟨0x3FE0000000000000#64⟩

/-- 2.0 -/
def two : F64 := ⟨0x4000000000000000#64⟩

/-- −2.0 -/
def negTwo : F64 := ⟨0xC000000000000000#64⟩

/-- 10.0 -/
def ten : F64 := ⟨0x4024000000000000#64⟩

/-- 20.0 -/
def twenty : F64 := ⟨0x4034000000000000#64⟩

/-- 40.0 -/
def forty : F64 := ⟨0x4044000000000000#64⟩

/-- 100.0 -/
def hundred : F64 := ⟨0x4059000000000000#64⟩

/-- `PI` of R14. -/
def piConst : F64 := ⟨0x400921FB54442D18#64⟩

/-- `LN2` of R14. -/
def ln2Const : F64 := ⟨0x3FE62E42FEFA39EF#64⟩

/-! ### The constants of R8 -/

/-- The numeric constants the source states, one field per row of R8's table, in its order.  Every one is an unaudited
literal (R3, U22): a correction changes its field of `dspm` and nothing else. -/
structure SourceConstants where
  /-- `EQ_F0`, Hz. -/
  eqF0 : F64
  /-- `EQ_GAIN_MIN`, dB. -/
  eqGainMinDb : Int
  /-- `EQ_GAIN_MAX`, dB. -/
  eqGainMaxDb : Int
  /-- `EQ_CADENCE_DIV`. -/
  eqCadenceDiv : F64
  /-- `EQ_DECAY_PER_S`, dB per second. -/
  eqDecayPerS : F64
  /-- `EQ_LOUD_LO`, dB. -/
  eqLoudLo : F64
  /-- `EQ_LOUD_HI`, dB. -/
  eqLoudHi : F64
  /-- `COMP_BP_FREQ`, Hz. -/
  compBpFreq : F64
  /-- `COMP_FS_DB`, dB. -/
  compFsDb : F64
  /-- `COMP_TARGET_DB`, dB SPL. -/
  compTargetDb : F64
  /-- `COMP_UNITY` is one shifted left by this. -/
  compUnityShift : Nat
  /-- `COMP_RATE_DIV`. -/
  compRateDiv : F64
  /-- `COMP_ATTACK_SHIFT`, bits. -/
  compAttackShift : Nat
  /-- `COMP_RATIO_MIN`. -/
  compRatioMin : F64
  /-- `COMP_RATIO_MAX`. -/
  compRatioMax : F64
  /-- The lower end of `COMP_WINDOW`, dB. -/
  compWindowLo : F64
  /-- The upper end of `COMP_WINDOW`, dB. -/
  compWindowHi : F64
  /-- `BASS_FREQ_DEFAULT`, Hz. -/
  bassFreqDefault : F64
  /-- `BASS_Q_BASE`. -/
  bassQBase : F64
  /-- `BASS_Q_DIV`. -/
  bassQDiv : F64
  /-- `STRENGTH_MAX`. -/
  strengthMax : Int
  /-- `VIRT_WIDE_THRESH`. -/
  virtWideThresh : Int
  /-- `VIRT_ATT_LO_DB`, dB. -/
  virtAttLoDb : F64
  /-- `VIRT_ATT_HI_DB`, dB. -/
  virtAttHiDb : F64
  /-- `VIRT_UNITY` is one shifted left by this. -/
  virtUnityShift : Nat
  /-- `VIRT_DELAY_A`, seconds. -/
  virtDelayA : F64
  /-- `VIRT_DELAY_B`, seconds. -/
  virtDelayB : F64
  /-- `VIRT_LOC_FREQ`, Hz. -/
  virtLocFreq : F64
  /-- `VIRT_LOC_GAIN`, dB. -/
  virtLocGain : F64
  /-- `VIRT_LOC_Q`. -/
  virtLocQ : F64
  /-- `CODEC_FLOAT_SCALE`. -/
  codecFloatScale : F64
  /-- `FADE_MAX`. -/
  fadeMax : Nat
  deriving DecidableEq, Repr, Inhabited

/-- The values of R8, as the source prints them. -/
def dspm : SourceConstants :=
  { eqF0 := ⟨0x402F400000000000#64⟩ -- 15.625
    eqGainMinDb := -10
    eqGainMaxDb := 10
    eqCadenceDiv := ⟨0x4059000000000000#64⟩ -- 100.0
    eqDecayPerS := ⟨0x4024000000000000#64⟩ -- 10.0
    eqLoudLo := ⟨0x4034000000000000#64⟩ -- 20.0
    eqLoudHi := ⟨0x4059000000000000#64⟩ -- 100.0
    compBpFreq := ⟨0x40A1300000000000#64⟩ -- 2200.0
    compFsDb := ⟨0x4058000000000000#64⟩ -- 96.0
    compTargetDb := ⟨0x4054C00000000000#64⟩ -- 83.0
    compUnityShift := 24
    compRateDiv := ⟨0x4048000000000000#64⟩ -- 48.0
    compAttackShift := 4
    compRatioMin := ⟨0x3FF0000000000000#64⟩ -- 1.0
    compRatioMax := ⟨0x4026000000000000#64⟩ -- 11.0
    compWindowLo := ⟨0xC049000000000000#64⟩ -- −50.0
    compWindowHi := ⟨0x0000000000000000#64⟩ -- 0.0
    bassFreqDefault := ⟨0x404B800000000000#64⟩ -- 55.0
    bassQBase := ⟨0x3FE0000000000000#64⟩ -- 0.5
    bassQDiv := ⟨0x4084D00000000000#64⟩ -- 666.0
    strengthMax := 1000
    virtWideThresh := 500
    virtAttLoDb := ⟨0xC02E000000000000#64⟩ -- −15.0
    virtAttHiDb := ⟨0xC014000000000000#64⟩ -- −5.0
    virtUnityShift := 32
    virtDelayA := ⟨0x3F9DB22D0E560419#64⟩ -- 0.029
    virtDelayB := ⟨0x3F978D4FDF3B645A#64⟩ -- 0.023
    virtLocFreq := ⟨0x4089000000000000#64⟩ -- 800.0
    virtLocGain := ⟨0xC026000000000000#64⟩ -- −11.0
    virtLocQ := ⟨0x3FE70A3D70A3D70A#64⟩ -- 0.72
    codecFloatScale := ⟨0x412E848000000000#64⟩ -- 1e6
    fadeMax := 100 }

/-! ### Equalizer (R171 to R179) -/

/-- The center of band `b`, `EQ_F0 × 4^b` Hz (R171). -/
def eqCenter (b : Nat) : F64 := fmul dspm.eqF0 (i2d (4 ^ b : Nat))

/-- The corner of shelf `k`, `31.25 × 4^k` Hz: the geometric mean of the centers of bands `k` and `k + 1` (R172), twice
the lower one. -/
def eqCorner (k : Nat) : F64 := fmul two (eqCenter k)

/-- `EQ_GAIN_MIN` at the interface, hundredths of a dB (R8, R30). -/
def eqGainMin : Int := 100 * dspm.eqGainMinDb

/-- `EQ_GAIN_MAX` at the interface, hundredths of a dB (R8, R30). -/
def eqGainMax : Int := 100 * dspm.eqGainMaxDb

/-- `EQ_CADENCE_DIV`: a refresh every `sampleRate/100` samples (R179). -/
def eqCadenceDiv : F64 := dspm.eqCadenceDiv

/-- The fall of the loudness estimate per refresh, 0.1 dB: `EQ_DECAY_PER_S` over the refreshes of a second (R176). -/
def eqDecayStep : F64 := fdiv dspm.eqDecayPerS dspm.eqCadenceDiv

/-- `EQ_LOUD_LO` (R175). -/
def eqLoudLo : F64 := dspm.eqLoudLo

/-- `EQ_LOUD_HI` (R175). -/
def eqLoudHi : F64 := dspm.eqLoudHi

/-- The 80.0 of R175, `EQ_LOUD_HI − EQ_LOUD_LO`. -/
def eqLoudSpan : F64 := fsub dspm.eqLoudHi dspm.eqLoudLo

/-- The loudness scale's value at full scale, the 96.0 of R176: `COMP_FS_DB` (log 23). -/
def eqFullScaleDb : F64 := dspm.compFsDb

/-! ### Compressor (R142 to R153) -/

/-- `COMP_BP_FREQ`: the weighting band-pass's center (R153). -/
def compBpFreq : F64 := dspm.compBpFreq

/-- The 13.0 of R145, `COMP_FS_DB − COMP_TARGET_DB`. -/
def compDbOffset : F64 := fsub dspm.compFsDb dspm.compTargetDb

/-- 2^48, the unity of a 16.48 power (R145, R176). -/
def powerUnity : F64 := ⟨0x42F0000000000000#64⟩

/-- The binary point of a compressor gain (R149). -/
def compUnityShift : Nat := dspm.compUnityShift

/-- `COMP_UNITY` (R32). -/
def compUnity : BitVec 64 := BitVec.ofNat 64 (2 ^ dspm.compUnityShift)

/-- `COMP_UNITY` as an `f64` (R148, R151). -/
def compUnityF : F64 := i2d (2 ^ dspm.compUnityShift : Nat)

/-- `COMP_RATE_DIV` (R149). -/
def compRateDiv : F64 := dspm.compRateDiv

/-- `COMP_ATTACK_SHIFT` (R150). -/
def compAttackShift : Nat := dspm.compAttackShift

/-- `COMP_RATIO_MIN` (R30). -/
def compRatioMin : F64 := dspm.compRatioMin

/-- `COMP_RATIO_MAX` (R30). -/
def compRatioMax : F64 := dspm.compRatioMax

/-- The 50.0 of R147, the depth of `COMP_WINDOW` (log 23). -/
def compWindowDepth : F64 := fsub dspm.compWindowHi dspm.compWindowLo

/-! ### Bass boost (R161) -/

/-- `BASS_Q_BASE`. -/
def bassQBase : F64 := dspm.bassQBase

/-- `BASS_Q_DIV`. -/
def bassQDiv : F64 := dspm.bassQDiv

/-- `STRENGTH_MAX`: bass and virtualizer strength 0..1000 (R30). -/
def strengthMax : Int := dspm.strengthMax

/-! ### Virtualizer (R191, R192) -/

/-- The strength at which the attenuation reaches its upper end, the 1000.0 of R191: `STRENGTH_MAX`. -/
def strengthMaxF : F64 := i2d dspm.strengthMax

/-- `VIRT_WIDE_THRESH`. -/
def virtWideThresh : Int := dspm.virtWideThresh

/-- `VIRT_ATT_LO_DB`. -/
def virtAttLoDb : F64 := dspm.virtAttLoDb

/-- The 10.0 of R191, `VIRT_ATT_HI_DB − VIRT_ATT_LO_DB`. -/
def virtAttSpanDb : F64 := fsub dspm.virtAttHiDb dspm.virtAttLoDb

/-- `VIRT_UNITY` as an `f64`. -/
def virtUnityF : F64 := i2d (2 ^ dspm.virtUnityShift : Nat)

/-- `VIRT_DELAY_A`: the left delay (R192). -/
def virtDelayA : F64 := dspm.virtDelayA

/-- `VIRT_DELAY_B`: the right delay (R192). -/
def virtDelayB : F64 := dspm.virtDelayB

/-- `VIRT_LOC_FREQ`. -/
def virtLocFreq : F64 := dspm.virtLocFreq

/-- `VIRT_LOC_GAIN`. -/
def virtLocGain : F64 := dspm.virtLocGain

/-- `VIRT_LOC_Q`. -/
def virtLocQ : F64 := dspm.virtLocQ

/-! ### Chain and codec -/

/-- `FADE_MAX` (R7, R29). -/
def fadeMax : Nat := dspm.fadeMax

/-- `FADE_MAX` as an `f64`, the 100.0 that a fade is a fraction of (R146, R173). -/
def fadeMaxF : F64 := i2d (dspm.fadeMax : Nat)

/-- The one accepted channel count (R86). -/
def channelCount : BitVec 8 := 2#8

/-- The greatest encoding selector (R86). -/
def encMax : BitVec 8 := 2#8

/-- The 16-bit scale of R71 (D15). -/
def codecS16Scale : F64 := ⟨0x4070000000000000#64⟩

/-- `CODEC_FLOAT_SCALE` (R72). -/
def codecFloatScale : F64 := dspm.codecFloatScale

/-! ### Reset values (R9, R21, R30, R34, R38) -/

/-- `BASS_FREQ_DEFAULT`, the source's "default 55 Hz": no parameter (R9). -/
def rstBassFreq : F64 := dspm.bassFreqDefault

/-- The defaults of `RST_*`, the values R38 states (log 9). -/
def rstDefaults : ResetKnobs :=
  { masterEn := false
    compRatio := ⟨0x3FF0000000000000#64⟩ -- 1.0
    bassStrength := 0#64
    eqLoudRef := ⟨0x0000000000000000#64⟩ -- 0.0
    eqLoud := ⟨0x4049000000000000#64⟩ -- 50.0
    virtStrength := 0#64 }

/-! ### Status codes (R270) -/

/-- `OK`: the command was carried out. -/
def statusOk : BitVec 8 := 0#8

/-- `E_ILLEGAL_CMD`: the command word selects no command (R271). -/
def eIllegalCmd : BitVec 8 := 1#8

/-- `E_BAD_RATE` (R272). -/
def eBadRate : BitVec 8 := 2#8

/-- `E_BAD_CHANNELS` (R272). -/
def eBadChannels : BitVec 8 := 3#8

/-- `E_PARAM_RANGE` (R273). -/
def eParamRange : BitVec 8 := 4#8

/-- `E_NOT_CONFIGURED` (R273). -/
def eNotConfigured : BitVec 8 := 5#8

/-! ### The machine's configuration -/

/-- DESIGN CHOICE (log 8): `DLY_MAX`, words, the practical value R303 names. -/
def dlyMaxWords : Nat := 65536

/-- The configuration record of the machine at hand: every open parameter free (log 7) but for three: `DLY_MAX` fixed as
R303 asks, `BLOCK_MAX` not fixed, which R9 admits (log 8), and `RST_*` at their defaults (log 9). -/
def cfg : Config := { Config.free with dlyMax := some dlyMaxWords, blockMax := none, rst := rstDefaults }

end Sys2Proof.Machine
end

