-- ==== Sys2Proof/Machine/Elementary.lean ====
section
/-! DEFINITION. The elementary functions of R14: total functions of their argument alone, with the exact properties R14
names and free everywhere else (log 5).  `ElementaryFaithful` of Safety.lean is the accuracy R14 lets a model name. -/

namespace Sys2Proof.Machine

/-- `fsin`, with `fsin(+0.0) = +0.0` (R14). -/
def fsin (c : Config) (x : F64) : F64 := if x = posZero then posZero else c.sin x

/-- `fcos`, with `fcos(+0.0) = 1.0` (R14). -/
def fcos (c : Config) (x : F64) : F64 := if x = posZero then fone else c.cos x

/-- `fsinh` (R14 names no exact value).  Of an infinity or a NaN it is not finite: DEDUCED (log 5) from R105 and R114, by
which `sn = 0` in the band-pass gives a NaN `alpha`.  Which infinity or NaN it is stays the configuration's free value; the
argument itself stands in where that value would be finite. -/
def fsinh (c : Config) (x : F64) : F64 :=
  let y := c.sinh x
  if isFinite x || !isFinite y then y else x

/-- `fpow10`, ten to the power `x`, with `fpow10(±0.0) = 1.0` (R14). -/
def fpow10 (c : Config) (x : F64) : F64 := if isZero x then fone else c.pow10 x

/-- `flog10` (R14 names no exact value). -/
def flog10 (c : Config) (x : F64) : F64 := c.log10 x

end Sys2Proof.Machine
end

