-- ==== Sys2Proof/Machine/Derive.lean ====
section
/-! DEFINITION. The registers that are functions of a knob (R31): a SETP recomputes them, and at reset they follow from
the reset knobs. -/

namespace Sys2Proof.Machine

/-- `BASS_Q = 0.5 + i2d(BASS_STRENGTH) ÷ 666.0` (R161). -/
def bassQOf (strength : BitVec 64) : F64 := fadd bassQBase (fdiv (i2d strength.toInt) bassQDiv)

/-- `VIRT_DEEP` of a strength (R191). -/
def virtDeepOf (strength : BitVec 64) : Bool := decide (strength ≠ 0#64)

/-- `VIRT_WIDE` of a strength (R191). -/
def virtWideOf (strength : BitVec 64) : Bool := decide (virtWideThresh ≤ strength.toInt)

/-- `VIRT_LEVEL` of a strength (R191): 0 at 0, else linear in dB, as a fixed-point multiplier of unity `1<<32`. -/
def virtLevelOf (c : Config) (strength : BitVec 64) : BitVec 64 :=
  if strength = 0#64 then 0#64
  else
    let db := fadd virtAttLoDb (fmul virtAttSpanDb (fdiv (i2d strength.toInt) strengthMaxF))
    satU 64 (d2i (fmul (fpow10 c (fdiv db twenty)) virtUnityF))

end Sys2Proof.Machine
end

