-- ==== Sys2Proof/Machine/State.lean ====
section
/-! DEFINITION. The state of the block as plain data (10_state.md R20 to R38), component by component, the reasons a
step can stop, and the state after reset. -/

namespace Sys2Proof.Machine

/-- One coefficient set (R23): `a0 a1 a2` feed-forward, `b1 b2` feedback, the leading denominator term 1 not stored. -/
structure Coeffs where
  a0 : F64
  a1 : F64
  a2 : F64
  b1 : F64
  b2 : F64
  deriving DecidableEq, Repr, Inhabited

/-- The registers of one biquad instance (R23). -/
structure Biquad where
  cur : Coeffs
  tgt : Coeffs
  rem : BitVec 32
  w1 : F64
  w2 : F64
  deriving DecidableEq, Repr, Inhabited

/-- The five cascaded shelves of one channel, `EQ_SH[c][0..4]` (R22). -/
structure Shelves where
  k0 : Biquad
  k1 : Biquad
  k2 : Biquad
  k3 : Biquad
  k4 : Biquad
  deriving DecidableEq, Repr, Inhabited

/-- The words of a delay RAM: (index, word) pairs, indices strictly rising, no word equal to what an unlisted index
reads as (`cellDefault`); that form is `memWf` of Machine/Ops.lean (log 11). -/
abbrev WordMem := List (Nat × F64)

/-- The registers of one delay line (R26); its cells are the indices `0 .. LEN − 1` of `buf`. -/
structure DelayLine where
  len : BitVec 32
  cur : BitVec 32
  buf : WordMem
  deriving DecidableEq, Repr, Inhabited

/-- The FIR16 unit (R27), connected to no command (R130). -/
structure Fir16 where
  c : Vector F64 16
  h : Vector F64 16
  deriving DecidableEq, Repr, Inhabited

/-- The compressor's registers (R22, R29, R30, R32). -/
structure Compressor where
  /-- `COMP_EN` -/
  en : Bool
  /-- `COMP_RATIO` -/
  ratio : F64
  /-- `COMP_FADE` -/
  fade : BitVec 8
  /-- `COMP_CUR[c]`, `i64`, unity `1<<24` -/
  cur : Stereo (BitVec 64)
  /-- `COMP_USER[c]`, `i64`, unity `1<<24` -/
  user : Stereo (BitVec 64)
  /-- `COMP_BP[c]` -/
  bp : Stereo Biquad
  deriving DecidableEq, Repr, Inhabited

/-- The bass boost's registers (R22, R29, R30, R31, R33). -/
structure BassBoost where
  /-- `BASS_EN` -/
  en : Bool
  /-- `BASS_STRENGTH`, `i64` -/
  strength : BitVec 64
  /-- `BASS_FREQ` -/
  freq : F64
  /-- `BASS_Q` -/
  q : F64
  /-- `BASS_LP` -/
  lp : Biquad
  deriving DecidableEq, Repr, Inhabited

/-- `EQ_BAND[0..5]` (R30), `i64` each, hundredths of a dB. -/
structure Bands where
  b0 : BitVec 64
  b1 : BitVec 64
  b2 : BitVec 64
  b3 : BitVec 64
  b4 : BitVec 64
  b5 : BitVec 64
  deriving DecidableEq, Repr, Inhabited

/-- The equalizer's registers (R22, R29, R30, R31, R34). -/
structure Equalizer where
  /-- `EQ_EN` -/
  en : Bool
  /-- `EQ_BAND[0..5]` -/
  band : Bands
  /-- `EQ_LOUD_EN` -/
  loudEn : Bool
  /-- `EQ_LOUD_REF` -/
  loudRef : F64
  /-- `EQ_FADE` -/
  fade : BitVec 8
  /-- `EQ_INTERVAL` -/
  interval : BitVec 32
  /-- `EQ_NEXT` -/
  next : BitVec 32
  /-- `EQ_LOUD[c]` -/
  loud : Stereo F64
  /-- `EQ_PWR[c]`, `u64` -/
  pwr : Stereo (BitVec 64)
  /-- `EQ_SH[c][k]` -/
  sh : Stereo Shelves
  deriving DecidableEq, Repr, Inhabited

/-- The virtualizer's registers (R22, R25, R29, R30, R31, R35). -/
structure Virtualizer where
  /-- `VIRT_EN` -/
  en : Bool
  /-- `VIRT_STRENGTH`, `i64` -/
  strength : BitVec 64
  /-- `VIRT_DEEP` -/
  deep : Bool
  /-- `VIRT_WIDE` -/
  wide : Bool
  /-- `VIRT_LEVEL`, `u64`, unity `1<<32` -/
  level : BitVec 64
  /-- `VIRT_LAST[c]` -/
  last : Stereo F64
  /-- `DLY_L`, `DLY_R` -/
  dly : Stereo DelayLine
  /-- `VIRT_LOC` -/
  loc : Biquad
  deriving DecidableEq, Repr, Inhabited

/-- The block's answer to a command (R80, R88): `STATUS`, `RES`, and the output block of a PROCESS carried out
(`none` where no `SOUT` is produced). -/
structure Response where
  status : BitVec 8
  res : BitVec 64
  sout : Option (List F64)
  deriving DecidableEq, Repr, Inhabited

/-- Reasons the model stops.  None is the hardware's: every error of the spec is a status code in a next state (R274). -/
inductive Fault where
  /-- Raised by PROCESS when its input block does not hold exactly `2n` words, against the host's contract of R87
  ("`SIN` must hold exactly `2n` words"); the spec gives no behaviour for it.  Safe (log 12). -/
  | blockLength
  /-- Raised by PROCESS when the virtualizer would index a delay RAM outside `0 .. LEN − 1`, which R66 and R124 say no
  rule can produce and R66 asks to treat as a fault of the model.  Safe; no run from reset reaches it (log 13). -/
  | delayIndex
  /-- Raised by PROCESS when the equalizer would divide by `EQ_INTERVAL = 0`, which R276 says cannot occur.  Safe; no
  run from reset reaches it (log 14). -/
  | divideByZero
  deriving DecidableEq, Repr, Inhabited

/-- Reasons the model gives an instruction no meaning. -/
inductive Refusal where
  /-- Raised by `exec` for an instruction that has no meaning yet (none is left).  Safe. -/
  | notModelled (mnemonic : String)
  deriving DecidableEq, Repr, Inhabited

/-- The whole state: the global registers (R21), the four effects, the FIR16 unit (R20), and the model's own command
port (log 1). -/
structure State where
  /-- `CONFIGURED` -/
  configured : Bool
  /-- `RATE` -/
  rate : F64
  /-- `ENC` -/
  enc : BitVec 8
  /-- `MASTER_EN` -/
  masterEn : Bool
  comp : Compressor
  bass : BassBoost
  eq : Equalizer
  virt : Virtualizer
  fir : Fir16
  /-- The model's own: the commands the host has still to issue, the next one first. -/
  inbox : List Command
  /-- The model's own: the input block `SIN` of the command in flight; empty between commands. -/
  sin : List F64
  /-- The model's own: the answer to the last command; `none` before the first. -/
  response : Option Response
  deriving DecidableEq, Repr, Inhabited

/-- The reset set (1, 0, 0, 0, 0) of R23. -/
def Coeffs.identity : Coeffs := ⟨fone, posZero, posZero, posZero, posZero⟩

/-- A biquad after reset (R23). -/
def Biquad.reset : Biquad :=
  { cur := Coeffs.identity, tgt := Coeffs.identity, rem := 0#32, w1 := posZero, w2 := posZero }

/-- A delay line after reset (R26): no cells. -/
def DelayLine.reset : DelayLine := { len := 0#32, cur := 0#32, buf := [] }

/-- The shelves of one channel after reset (R23). -/
def Shelves.reset : Shelves :=
  { k0 := Biquad.reset, k1 := Biquad.reset, k2 := Biquad.reset, k3 := Biquad.reset, k4 := Biquad.reset }

/-- The FIR16 unit after reset (R27). -/
def Fir16.reset : Fir16 :=
  { c := #v[fone, posZero, posZero, posZero, posZero, posZero, posZero, posZero,
            posZero, posZero, posZero, posZero, posZero, posZero, posZero, posZero],
    h := Vector.replicate 16 posZero }

/-- An instance made with the record `c`, right after reset (R38, R290): the knobs at its `RST_*`, the derived registers
computed from them (R31).  `RATE` and `ENC` have no reset value in the spec: log 4. -/
def State.resetWith (c : Config) : State :=
  { configured := false
    rate := posZero
    enc := 0#8
    masterEn := c.rst.masterEn
    comp :=
      { en := false, ratio := c.rst.compRatio, fade := 0#8, cur := ⟨compUnity, compUnity⟩,
        user := ⟨compUnity, compUnity⟩, bp := ⟨Biquad.reset, Biquad.reset⟩ }
    bass :=
      { en := false, strength := c.rst.bassStrength, freq := rstBassFreq, q := bassQOf c.rst.bassStrength,
        lp := Biquad.reset }
    eq :=
      { en := false, band := ⟨0#64, 0#64, 0#64, 0#64, 0#64, 0#64⟩, loudEn := false, loudRef := c.rst.eqLoudRef,
        fade := 0#8, interval := 1#32, next := 0#32, loud := ⟨c.rst.eqLoud, c.rst.eqLoud⟩, pwr := ⟨0#64, 0#64⟩,
        sh := ⟨Shelves.reset, Shelves.reset⟩ }
    virt :=
      { en := false, strength := c.rst.virtStrength, deep := virtDeepOf c.rst.virtStrength,
        wide := virtWideOf c.rst.virtStrength, level := virtLevelOf c c.rst.virtStrength, last := ⟨posZero, posZero⟩,
        dly := ⟨DelayLine.reset, DelayLine.reset⟩, loc := Biquad.reset }
    fir := Fir16.reset
    inbox := []
    sin := []
    response := none }

/-- The machine at hand right after reset: `RST_*` at their defaults, the values R38 lists (log 9). -/
def State.reset : State := State.resetWith cfg

end Sys2Proof.Machine
end

