-- ==== Sys2Proof/Machine/Ops.lean ====
section
/-! DEFINITION. The named operations over the delay RAM words and over the command port, among them the one way an
error is raised (R274).  There is no return from an error: an error is a return value (R278, R279). -/

namespace Sys2Proof.Machine

/-- What one step answers. -/
abbrev Result := Host.Outcome State Fault Refusal

/-! ### Delay RAM words (R63, R64; log 11) -/

/-- What an index that is not listed reads as: +0.0, which `DL.configure` writes to every cell (R121). -/
def cellDefault : F64 := posZero

/-- `MemRead(space, i)` (R17). -/
def memRead : WordMem → Nat → F64
  | [], _ => cellDefault
  | (j, w) :: rest, i => if i = j then w else memRead rest i

/-- `MemWrite(space, i, v)` (R17), keeping the canonical form. -/
def memWrite : WordMem → Nat → F64 → WordMem
  | [], i, v => if v = cellDefault then [] else [(i, v)]
  | (j, w) :: rest, i, v =>
    if i < j then (if v = cellDefault then (j, w) :: rest else (i, v) :: (j, w) :: rest)
    else if i = j then (if v = cellDefault then rest else (i, v) :: rest)
    else (j, w) :: memWrite rest i v

/-- The canonical form: indices strictly rising, no word equal to `cellDefault`. -/
def memWf : WordMem → Bool
  | [] => true
  | (i, w) :: rest => decide (w ≠ cellDefault) && rest.all (fun c => decide (i < c.1)) && memWf rest

/-! ### Responses (R80, R88) -/

/-- End the command in flight: put the response on the port and let the input block go (R61: `SIN` exists only for the
duration of its PROCESS). -/
def reply (s : State) (status : BitVec 8) (res : BitVec 64) (sout : Option (List F64)) : State :=
  { s with sin := [], response := some { status := status, res := res, sout := sout } }

/-- `raise E(code)` (R18, R274): the code in `STATUS`, `RES = 0`, no `SOUT`, every register and delay cell as it was. -/
def raise (code : BitVec 8) (s : State) : Result := .next (reply s code 0#64 none)

/-- `return (OK, res)` (R18, R88) with no output block. -/
def complete (res : BitVec 64) (s : State) : Result := .next (reply s statusOk res none)

/-- Take the next command off the host's list: its operand is in the decoded instruction, its input block on the port. -/
def accept (s : State) (sin : List F64) (rest : List Command) : State := { s with inbox := rest, sin := sin }

end Sys2Proof.Machine
end

