-- ==== Sys2Proof/Machine/Biquad.lean ====
section
/-! DEFINITION. BiquadFilter (40_biquad.md R100 to R115): the three designs, the click-free transition and the
recursion.  Every expression keeps the operation order of its rule (R12). -/

namespace Sys2Proof.Machine

/-- Response kinds (R101). -/
inductive BqKind where
  | lowpass
  | bandpass
  | highshelf
  deriving DecidableEq, Repr, Inhabited

/-- `w0 = ((2.0 × PI) × f) ÷ rate` of R104 to R106. -/
def designW0 (f rate : F64) : F64 := fdiv (fmul (fmul two piConst) f) rate

/-- `BQ.design_lowpass(f, rate, Q)` (R104). -/
def designLowpass (c : Config) (f rate q : F64) : DesignTerms :=
  let w0 := designW0 f rate
  let sn := fsin c w0
  let cs := fcos c w0
  let alpha := fdiv sn (fmul two q)
  let n0 := fdiv (fsub fone cs) two
  { n0 := n0
    n1 := fsub fone cs
    n2 := n0
    d0 := fadd fone alpha
    d1 := fmul negTwo cs
    d2 := fsub fone alpha }

/-- `BQ.design_bandpass(f, rate, BW)` (R105).  At `sn = 0` the argument of `fsinh` is an infinity or a NaN, so its value is
not finite and `alpha` is a NaN, and with it every coefficient (R105 corner case, R114). -/
def designBandpass (c : Config) (f rate bw : F64) : DesignTerms :=
  let w0 := designW0 f rate
  let sn := fsin c w0
  let cs := fcos c w0
  let alpha := fmul sn (fsinh c (fdiv (fmul (fmul (fdiv ln2Const two) bw) w0) sn))
  { n0 := alpha
    n1 := posZero
    n2 := fneg alpha
    d0 := fadd fone alpha
    d1 := fmul negTwo cs
    d2 := fsub fone alpha }

/-- `alpha` of R106, by `SHELF_PARAM_MODE`. -/
def shelfAlpha (mode : ShelfParamMode) (sn a s : F64) : F64 :=
  match mode with
  | .slope =>
    fmul (fdiv sn two)
      (fsqrt (fadd (fmul (fadd a (fdiv fone a)) (fsub (fdiv fone s) fone)) two))
  | .q => fdiv sn (fmul two s)

/-- `BQ.design_highshelf(f, rate, S, dBGain, overallDb)` (R106). -/
def designHighshelf (c : Config) (f rate s dBGain overallDb : F64) : DesignTerms :=
  let w0 := designW0 f rate
  let sn := fsin c w0
  let cs := fcos c w0
  let a := fpow10 c (fdiv dBGain forty)
  let sqA := fsqrt a
  let alpha := shelfAlpha c.shelfParamMode sn a s
  let t := fmul (fmul two sqA) alpha
  let ap := fadd a fone
  let am := fsub a fone
  let g := fpow10 c (fdiv overallDb twenty)
  { n0 := fmul (fmul a (fadd (fadd ap (fmul am cs)) t)) g
    n1 := fmul (fmul (fmul negTwo a) (fadd am (fmul ap cs))) g
    n2 := fmul (fmul a (fsub (fadd ap (fmul am cs)) t)) g
    d0 := fadd (fsub ap (fmul am cs)) t
    d1 := fmul two (fsub am (fmul ap cs))
    d2 := fsub (fsub ap (fmul am cs)) t }

/-- The design of a kind by `BQ_DESIGN` (R103, R9): the equations of R104 to R106, or the substituted ones.  `dBGain`
and `overallDb` are used by the high shelf only (R101). -/
def designTerms (c : Config) (kind : BqKind) (f rate p dBGain overallDb : F64) : DesignTerms :=
  match c.bqDesign, kind with
  | .cookbook, .lowpass => designLowpass c f rate p
  | .cookbook, .bandpass => designBandpass c f rate p
  | .cookbook, .highshelf => designHighshelf c f rate p dBGain overallDb
  | .other lp _ _, .lowpass => lp f rate p
  | .other _ bp _, .bandpass => bp f rate p
  | .other _ _ hs, .highshelf => hs f rate p dBGain overallDb

/-- `normalise` (R107): five divisions by the leading denominator term. -/
def normalise (t : DesignTerms) : Coeffs :=
  { a0 := fdiv t.n0 t.d0
    a1 := fdiv t.n1 t.d0
    a2 := fdiv t.n2 t.d0
    b1 := fdiv t.d1 t.d0
    b2 := fdiv t.d2 t.d0 }

/-- `BQ.install(new, interval)` (R108): interval 0 snaps; otherwise a ramp starts from the current set (R109, R302). -/
def bqInstall (new : Coeffs) (interval : BitVec 32) (b : Biquad) : Biquad :=
  if interval = 0#32 then { b with tgt := new, cur := new, rem := 0#32 }
  else { b with tgt := new, rem := interval }

/-- The normalised target set a `configure` computes (R103, R107). -/
def bqDesign (c : Config) (kind : BqKind) (f rate p dBGain overallDb : F64) : Coeffs :=
  normalise (designTerms c kind f rate p dBGain overallDb)

/-- `BQ.configure(kind, interval, f, rate, p, dBGain, overallDb)` (R103).  The history is not touched (R109). -/
def bqConfigure (c : Config) (kind : BqKind) (interval : BitVec 32) (f rate p dBGain overallDb : F64)
    (b : Biquad) : Biquad :=
  bqInstall (bqDesign c kind f rate p dBGain overallDb) interval b

/-- One coefficient's move toward its target with `r` calls left: `cur + (tgt − cur) ÷ r` (R111). -/
def rampStep (cur tgt r : F64) : F64 := fadd cur (fdiv (fsub tgt cur) r)

/-- `BQ.step()` (R111). -/
def bqStep (b : Biquad) : Biquad :=
  if b.rem = 0#32 then b
  else if b.rem = 1#32 then { b with cur := b.tgt, rem := 0#32 }
  else
    let r := i2d b.rem.toNat
    { b with
      cur :=
        { a0 := rampStep b.cur.a0 b.tgt.a0 r
          a1 := rampStep b.cur.a1 b.tgt.a1 r
          a2 := rampStep b.cur.a2 b.tgt.a2 r
          b1 := rampStep b.cur.b1 b.tgt.b1 r
          b2 := rampStep b.cur.b2 b.tgt.b2 r }
      rem := b.rem - 1#32 }

/-- The recursive half's new sample, `w` of R110. -/
def bqW (b : Biquad) (x : F64) : F64 := fsub (fsub x (fmul b.cur.b1 b.w1)) (fmul b.cur.b2 b.w2)

/-- The output, `y` of R110, from the recursive half's new sample `w`. -/
def bqY (b : Biquad) (w : F64) : F64 :=
  fadd (fadd (fmul b.cur.a0 w) (fmul b.cur.a1 b.w1)) (fmul b.cur.a2 b.w2)

/-- `BQ.process(x) -> y` (R110): the output with the coefficients of `cur` before the call's `step`; the history
moves, then one step of the interpolation. -/
def bqProcess (b : Biquad) (x : F64) : Biquad × F64 :=
  let w := bqW b x
  (bqStep { b with w2 := b.w1, w1 := w }, bqY b w)

/-- `BQ.clear()` (R113). -/
def bqClear (b : Biquad) : Biquad := { b with w1 := posZero, w2 := posZero }

end Sys2Proof.Machine
end

