-- ==== Sys2Proof/Machine/Bass.lean ====
section
/-! DEFINITION. BassBoost (44_bassboost.md R160 to R165). -/

namespace Sys2Proof.Machine

/-- The bass filter redesigned over `interval` calls (R162). -/
def bassConfigure (c : Config) (interval : BitVec 32) (rate : F64) (b : BassBoost) : BassBoost :=
  { b with lp := bqConfigure c .lowpass interval b.freq rate b.q posZero posZero b.lp }

/-- `BASS.retune()` (R162): nothing while `CONFIGURED = 0`. -/
def bassRetune (c : Config) (configured : Bool) (rate : F64) (b : BassBoost) : BassBoost :=
  if configured then bassConfigure c c.bassInterval rate b else b

/-- `BASS.frame(L, R)` (R163): one filter on the sum, its output added to both channels. -/
def bassFrame (b : BassBoost) (l r : F64) : BassBoost × F64 × F64 :=
  let p := bqProcess b.lp (fadd l r)
  ({ b with lp := p.1 }, fadd l p.2, fadd r p.2)

end Sys2Proof.Machine
end

