-- ==== Sys2Proof/Machine/Flags.lean ====
section
/-! DEFINITION. The flags that gate the stages (R29, R208) and the status `ACTIVE` (R210).  The block has no arithmetic
condition codes: no operation records a carry, zero, overflow or sign flag (R29). -/

namespace Sys2Proof.Machine

/-- The four `run_*` conditions, evaluated once at the start of PROCESS (R205, R208). -/
structure Gates where
  comp : Bool
  bass : Bool
  virt : Bool
  eq : Bool
  deriving DecidableEq, Repr, Inhabited

/-- `COMP_EN or COMP_FADE ≠ 0` (R141, R152): the compressor's run condition and, after the block, its active status. -/
def compRuns (k : Compressor) : Bool := k.en || decide (k.fade ≠ 0#8)

/-- The gates of R205. -/
def gatesOf (s : State) : Gates :=
  { comp := compRuns s.comp, bass := s.bass.en, virt := s.virt.en, eq := s.eq.en }

/-- `active()` (R210), with the values the registers hold after the block. -/
def isActive (s : State) : Bool :=
  (compRuns s.comp || s.bass.en || s.virt.en || s.eq.en) && s.masterEn

/-- `RES` of a PROCESS carried out: `ACTIVE` in bit 0, bits 63..1 zero (R88, R210). -/
def activeResult (s : State) : BitVec 64 := if isActive s then 1#64 else 0#64

end Sys2Proof.Machine
end

