-- ==== Sys2Proof/Machine/Compress.lean ====
section
/-! DEFINITION. Compressor (43_compressor.md R140 to R155): the level analysis once per block, the slew-limited gain
and the per-frame gain stage.  Local values are exact integers; register writes saturate (R13). -/

namespace Sys2Proof.Machine

/-- A write `acc <- acc + q × q` of a `u64` power accumulator (R142, R181): saturating. -/
def addSquare (acc : BitVec 64) (x : F64) : BitVec 64 :=
  let q := d2i x
  satU 64 (acc.toNat + q * q)

/-- The loop of `analysis` (R142): each input frame through the weighting filters, its square added. -/
def compAnalyse : Stereo Biquad → Stereo (BitVec 64) → List F64 → Stereo Biquad × Stereo (BitVec 64)
  | bp, acc, l :: r :: rest =>
    let pl := bqProcess bp.l l
    let pr := bqProcess bp.r r
    compAnalyse ⟨pl.1, pr.1⟩ ⟨addSquare acc.l pl.2, addSquare acc.r pr.2⟩ rest
  | bp, acc, _ => (bp, acc)

/-- The mean over the block, `acc / max(n, 1)` (R142). -/
def meanPower (acc : BitVec 64) (n : Nat) : Nat := acc.toNat / max n 1

/-- `level_db(p)` (R145). -/
def levelDb (c : Config) (p : Nat) : F64 :=
  fadd (fmul ten (flog10 c (fadd (fdiv (i2d p) powerUnity) c.compEps))) compDbOffset

/-- `COMP.fade_step()` (R143): one step toward 100 when enabled, toward 0 when not. -/
def fadeStep (en : Bool) (fade : BitVec 8) : BitVec 8 :=
  if en then (if fade.toNat < fadeMax then fade + 1#8 else fade)
  else (if 0 < fade.toNat then fade - 1#8 else fade)

/-- A fade counter as a fraction, `i2d(fade) ÷ 100.0` (R146, R173). -/
def fadeFraction (fade : BitVec 8) : F64 := fdiv (i2d fade.toNat) fadeMaxF

/-- The default of `COMP_SOFTEN` (R147): `c − ((c ÷ 100.0) × (c ÷ 100.0)) × 50.0`. -/
def softenQuadratic (x : F64) : F64 := fsub x (fmul (fmul (fdiv x hundred) (fdiv x hundred)) compWindowDepth)

/-- The correction before softening, `c1` of R146. -/
def rawCorrection (ratio : F64) (fade : BitVec 8) (lvl : F64) : F64 :=
  fmul (fsub (fdiv lvl ratio) lvl) (fadeFraction fade)

/-- `correction(lvl)` (R146, R147), in dB. -/
def correction (c : Config) (ratio : F64) (fade : BitVec 8) (lvl : F64) : F64 :=
  c.compSoften (rawCorrection ratio fade lvl)

/-- `multiplier(corr)` (R148): `d2i(2^24 × fpow10(corr ÷ 20.0))`, unity `1<<24`. -/
def multiplier (c : Config) (corr : F64) : Int := d2i (fmul compUnityF (fpow10 c (fdiv corr twenty)))

/-- The gain a channel is headed for, `want` of R149. -/
def wantedGain (user : BitVec 64) (factor : Int) : Int := (user.toInt * factor) >>> compUnityShift

/-- The slew divisor, `D` of R149: `max(1, d2i(RATE ÷ 48.0), n)`. -/
def slewDivisor (rate : F64) (n : Nat) : Int := max (max 1 (d2i (fdiv rate compRateDiv))) (n : Int)

/-- `slew(c, factor, n)` (R149, R150): the per-frame increment toward `want`, truncated toward zero, an increase
shifted right by 4 more bits. -/
def slew (user cur : BitVec 64) (factor : Int) (rate : F64) (n : Nat) : Int :=
  let a := Int.tdiv (wantedGain user factor - cur.toInt) (slewDivisor rate n)
  if 0 < a then a >>> compAttackShift else a

/-- The level proxy of a block: the greater of the two channels' mean powers (R142, R144). -/
def blockPower (acc : Stereo (BitVec 64)) (n : Nat) : Nat := max (meanPower acc.l n) (meanPower acc.r n)

/-- The block's correction factor (R145 to R148) for a level proxy, with the fade already stepped (R141, D29). -/
def blockFactor (c : Config) (ratio : F64) (fade : BitVec 8) (p : Nat) : Int :=
  multiplier c (correction c ratio fade (levelDb c p))

/-- `COMP.block(n)` (R141): analysis, fade step, correction, slew; the registers after it, and the locals `adj[L]`,
`adj[R]` of the PROCESS in flight. -/
def compBlock (c : Config) (rate : F64) (n : Nat) (sin : List F64) (k : Compressor) : Compressor × Stereo Int :=
  let a := compAnalyse k.bp ⟨0#64, 0#64⟩ sin
  let fade := fadeStep k.en k.fade
  let factor := blockFactor c k.ratio fade (blockPower a.2 n)
  ({ k with bp := a.1, fade := fade },
    ⟨slew k.user.l k.cur.l factor rate n, slew k.user.r k.cur.r factor rate n⟩)

/-- One channel's gain applied to a sample, `(x × i2d(COMP_CUR)) ÷ 16777216.0` (R151). -/
def applyGain (gain : BitVec 64) (x : F64) : F64 := fdiv (fmul x (i2d gain.toInt)) compUnityF

/-- The registers after `COMP.frame` (R151): each gain moved by its increment. -/
def compFrameNext (adj : Stereo Int) (k : Compressor) : Compressor :=
  { k with cur := ⟨satI64 (k.cur.l.toInt + adj.l), satI64 (k.cur.r.toInt + adj.r)⟩ }

/-- `COMP.frame(L, R)` (R151): scaled by the gains before their increment (D33). -/
def compFrame (adj : Stereo Int) (k : Compressor) (l r : F64) : Compressor × F64 × F64 :=
  (compFrameNext adj k, applyGain k.cur.l l, applyGain k.cur.r r)

end Sys2Proof.Machine
end

