-- ==== Sys2Proof/Machine/Equalize.lean ====
section
/-! DEFINITION. Equalizer (45_equalizer.md R170 to R184). -/

namespace Sys2Proof.Machine

/-- `loud_adj(b, c)` (R175): linear between the tabulated values in the clamped level `EQ_LOUD[c] + EQ_LOUD_REF`.  A
NaN level passes both comparisons. -/
def loudAdj (v20 v100 loud loudRef : F64) : F64 :=
  let lv := fadd loud loudRef
  let lv := if fgt lv eqLoudHi then eqLoudHi else lv
  let lv := if flt lv eqLoudLo then eqLoudLo else lv
  let t := fdiv (fsub lv eqLoudLo) eqLoudSpan
  fadd v20 (fmul (fsub v100 v20) t)

/-- `gain_db(b, c)` (R173) of a band with user gain `user` and table entries `v20`, `v100`. -/
def bandGainDb (e : Equalizer) (loud : F64) (user : BitVec 64) (v20 v100 : F64) : F64 :=
  fmul (fadd (fdiv (i2d user.toInt) hundred) (if e.loudEn then loudAdj v20 v100 loud e.loudRef else posZero))
    (fadeFraction e.fade)

/-- `g[0..5]` of a channel (R178): its six effective gains. -/
def bandGains (c : Config) (e : Equalizer) (loud : F64) : BandTable :=
  { b0 := bandGainDb e loud e.band.b0 c.eqV20.b0 c.eqV100.b0
    b1 := bandGainDb e loud e.band.b1 c.eqV20.b1 c.eqV100.b1
    b2 := bandGainDb e loud e.band.b2 c.eqV20.b2 c.eqV100.b2
    b3 := bandGainDb e loud e.band.b3 c.eqV20.b3 c.eqV100.b3
    b4 := bandGainDb e loud e.band.b4 c.eqV20.b4 c.eqV100.b4
    b5 := bandGainDb e loud e.band.b5 c.eqV20.b5 c.eqV100.b5 }

/-- One shelf's target at a refresh (R172): the step `hi − lo` between two adjacent bands, and the flat gain. -/
def shelfDesign (c : Config) (rate corner lo hi overallDb : F64) : Coeffs :=
  bqDesign c .highshelf corner rate c.eqShelfSlope (fsub hi lo) overallDb

/-- The five shelves of a channel configured from its gains (R172, R178). -/
def refreshShelves (c : Config) (interval : BitVec 32) (rate : F64) (g : BandTable) (s : Shelves) : Shelves :=
  { k0 := bqInstall (shelfDesign c rate (eqCorner 0) g.b0 g.b1 g.b0) interval s.k0
    k1 := bqInstall (shelfDesign c rate (eqCorner 1) g.b1 g.b2 posZero) interval s.k1
    k2 := bqInstall (shelfDesign c rate (eqCorner 2) g.b2 g.b3 posZero) interval s.k2
    k3 := bqInstall (shelfDesign c rate (eqCorner 3) g.b3 g.b4 posZero) interval s.k3
    k4 := bqInstall (shelfDesign c rate (eqCorner 4) g.b4 g.b5 posZero) interval s.k4 }

/-- `EQ.refresh(interval)` (R178): the ten shelves; no history, no other register. -/
def eqRefresh (c : Config) (interval : BitVec 32) (rate : F64) (e : Equalizer) : Equalizer :=
  { e with
    sh := ⟨refreshShelves c interval rate (bandGains c e e.loud.l) e.sh.l,
           refreshShelves c interval rate (bandGains c e e.loud.r) e.sh.r⟩ }

/-- The level of an interval's mean square on the loudness scale, `db` of R176. -/
def loudnessDb (c : Config) (pwr : BitVec 64) (interval : BitVec 32) : F64 :=
  fadd eqFullScaleDb
    (fmul ten (flog10 c (fadd (fdiv (i2d (pwr.toNat / interval.toNat : Nat)) powerUnity) c.compEps)))

/-- `loud_update(loud, pwr)` (R176): a fall of 0.1, or the interval's level. -/
def loudUpdate (c : Config) (interval : BitVec 32) (loud : F64) (pwr : BitVec 64) : F64 :=
  let db := loudnessDb c pwr interval
  if fgt loud (fadd db eqDecayStep) then fsub loud eqDecayStep else db

/-- The fade advance of R177: never down. -/
def eqFadeStep (en : Bool) (fade : BitVec 8) : BitVec 8 :=
  if en && decide (fade.toNat < fadeMax) then fade + 1#8 else fade

/-- The refresh that `EQ.frame` makes when it is due (R181): counter, loudness, accumulators, fade, then the filters. -/
def eqRefreshFrame (c : Config) (rate : F64) (e : Equalizer) : Equalizer :=
  eqRefresh c e.interval rate
    { e with
      next := e.interval
      loud := ⟨loudUpdate c e.interval e.loud.l e.pwr.l, loudUpdate c e.interval e.loud.r e.pwr.r⟩
      pwr := ⟨0#64, 0#64⟩
      fade := eqFadeStep e.en e.fade }

/-- A refresh when `EQ_NEXT = 0` (R181). -/
def eqDue (c : Config) (rate : F64) (e : Equalizer) : Equalizer :=
  if e.next = 0#32 then eqRefreshFrame c rate e else e

/-- The five shelves of a channel run in cascade (R181): the shelves after, and the sample out. -/
def runShelves (s : Shelves) (x : F64) : Shelves × F64 :=
  let p0 := bqProcess s.k0 x
  let p1 := bqProcess s.k1 p0.2
  let p2 := bqProcess s.k2 p1.2
  let p3 := bqProcess s.k3 p2.2
  let p4 := bqProcess s.k4 p3.2
  ({ k0 := p0.1, k1 := p1.1, k2 := p2.1, k3 := p3.1, k4 := p4.1 }, p4.2)

/-- `EQ.frame` after the refresh that may be due (R181): count, meter the stage's input, filter. -/
def eqFilter (e : Equalizer) (l r : F64) : Equalizer × F64 × F64 :=
  let pl := runShelves e.sh.l l
  let pr := runShelves e.sh.r r
  ({ e with
      next := satU 32 ((e.next.toNat : Int) - 1)
      pwr := ⟨addSquare e.pwr.l l, addSquare e.pwr.r r⟩
      sh := ⟨pl.1, pr.1⟩ },
    pl.2, pr.2)

/-- `EQ.frame(L, R)` (R181). -/
def eqFrame (c : Config) (rate : F64) (e : Equalizer) (l r : F64) : Equalizer × F64 × F64 :=
  eqFilter (eqDue c rate e) l r

end Sys2Proof.Machine
end

