-- ==== Sys2Proof/Machine/Operands.lean ====
section
/-! DEFINITION. Operand assembly (R85, R86, R87): what `OPD` carries for each type, what is legal, and how `RES`
carries a value back. -/

namespace Sys2Proof.Machine

/-- A bool operand (R85): the integer 0 or 1 in all 64 bits; any other pattern is out of range. -/
def boolOperand (opd : BitVec 64) : Option Bool :=
  if opd = 0#64 then some false else if opd = 1#64 then some true else none

/-- An `i64` operand (R85): two's complement, legal from `lo` to `hi`. -/
def i64Operand (lo hi : Int) (opd : BitVec 64) : Option (BitVec 64) :=
  if lo ≤ opd.toInt ∧ opd.toInt ≤ hi then some opd else none

/-- An `f64` operand (R85): `bits(v)`; NaN and infinities are out of range for every `f64` knob. -/
def f64Operand (legal : F64 → Bool) (opd : BitVec 64) : Option F64 :=
  if isFinite ⟨opd⟩ && legal ⟨opd⟩ then some ⟨opd⟩ else none

/-- The legal values of `COMP_RATIO`: 1.0 to 11.0 (R30, R225). -/
def legalRatio (v : F64) : Bool := fle compRatioMin v && fle v compRatioMax

/-- The legal values of `BASS_FREQ`: `v > 0` (R30, R228). -/
def legalFreq (v : F64) : Bool := flt posZero v

/-- The legal values of `EQ_LOUD_REF`: any finite value (R30, R237). -/
def legalLoudRef (_ : F64) : Bool := true

/-- A legal sample rate (R86, R221): not NaN, not infinite, and `rate > 0.0`. -/
def legalRate (rate : F64) : Bool := !isNaN rate && !isInf rate && flt posZero rate

/-- How `RES` carries a bool (R85). -/
def encodeBool (b : Bool) : BitVec 64 := if b then 1#64 else 0#64

/-- How `RES` carries an `i64` (R85): the stored value in two's complement. -/
def encodeI64 (v : BitVec 64) : BitVec 64 := v

/-- How `RES` carries an `f64` (R85): `bits(v)`. -/
def encodeF64 (v : F64) : BitVec 64 := v.bits

/-- Whether a count is above a capacity that the configuration may leave unfixed (R87, R221). -/
def exceeds (cap : Option Nat) (count : Int) : Bool :=
  match cap with
  | none => false
  | some m => decide ((m : Int) < count)

/-- The template of every SETP (R222): a value that is not legal is refused and nothing is written; a legal one is
written with its side effects. -/
def setKnob {α : Type} (operand : Option α) (write : α → State → State) (s : State) : Result :=
  match operand with
  | none => raise eParamRange s
  | some v => complete 0#64 (write v s)

end Sys2Proof.Machine
end

