-- ==== Sys2Proof/Machine/Delay.lean ====
section
/-! DEFINITION. DelayLine (41_delayline.md R120 to R124). -/

namespace Sys2Proof.Machine

/-- The length `DL.configure` sets: `rnd(rate × seconds)` (R121). -/
def delayLength (rate seconds : F64) : Int := rnd (fmul rate seconds)

/-- `DL.configure(rate, seconds)` (R121): the length set, the cursor at 0, every cell +0.0 (no cell listed, log 11),
whatever the line held (D23). -/
def dlConfigure (rate seconds : F64) (_ : DelayLine) : DelayLine :=
  { len := satU 32 (delayLength rate seconds), cur := 0#32, buf := [] }

/-- The line after `DL.process(x)` (R122, R123): one word written at the cursor, the cursor moved back with wrap;
nothing for a line of length 0. -/
def dlNext (d : DelayLine) (x : F64) : DelayLine :=
  if d.len = 0#32 then d
  else
    { d with
      buf := memWrite d.buf d.cur.toNat x
      cur := if d.cur = 0#32 then d.len - 1#32 else d.cur - 1#32 }

/-- The sample `DL.process(x)` returns (R122, R123): the word at the cursor, read before the write. -/
def dlOut (d : DelayLine) (x : F64) : F64 :=
  if d.len = 0#32 then x else memRead d.buf d.cur.toNat

/-- `DL.process(x) -> y` (R122). -/
def dlProcess (d : DelayLine) (x : F64) : DelayLine × F64 := (dlNext d x, dlOut d x)

/-- The index bound of R66 and R124: a line with cells has its cursor on one of them. -/
def dlInBounds (d : DelayLine) : Bool := decide (d.len = 0#32) || decide (d.cur.toNat < d.len.toNat)

end Sys2Proof.Machine
end

