-- ==== Sys2Proof/Machine/Virtualize.lean ====
section
/-! DEFINITION. Virtualizer (46_virtualizer.md R190 to R199). -/

namespace Sys2Proof.Machine

/-- `VIRT.derive()` (R191): `VIRT_DEEP`, `VIRT_WIDE`, `VIRT_LEVEL` from `VIRT_STRENGTH`. -/
def virtDerive (c : Config) (v : Virtualizer) : Virtualizer :=
  { v with
    deep := virtDeepOf v.strength
    wide := virtWideOf v.strength
    level := virtLevelOf c v.strength }

/-- The sample a channel's delay line takes (R194): the input, plus the other channel's last wet value if `deep`. -/
def virtFeed (v : Virtualizer) (x other : F64) : F64 := if v.deep then fadd x other else x

/-- The attenuation of R194: `(d × i2d(VIRT_LEVEL)) ÷ 4294967296.0`. -/
def attenuate (level : BitVec 64) (d : F64) : F64 := fdiv (fmul d (i2d level.toNat)) virtUnityF

/-- The wet pair of a frame (R194), both `VIRT_LAST` read before either is written. -/
def virtWet (v : Virtualizer) (l r : F64) : Stereo F64 :=
  let dl := dlOut v.dly.l (virtFeed v l v.last.r)
  let dr := dlOut v.dly.r (virtFeed v r v.last.l)
  ⟨attenuate v.level dl, attenuate v.level (if v.wide then fneg dr else dr)⟩

/-- The center of a frame with its wet pair added, `(mL + mR) × 0.5` (R194). -/
def virtCenter (wet : Stereo F64) (l r : F64) : F64 := fmul (fadd (fadd l wet.l) (fadd r wet.r)) half

/-- The side of a frame with its wet pair added, `(mL − mR) × 0.5` (R194). -/
def virtSide (wet : Stereo F64) (l r : F64) : F64 := fmul (fsub (fadd l wet.l) (fadd r wet.r)) half

/-- `loc(side)` (R195) by `VIRT_SIDE_MODE`, with `y` the shelf's output for `side`. -/
def sideReduced (mode : VirtSideMode) (side y : F64) : F64 :=
  match mode with
  | .filter => y
  | .subtract => fsub side y

/-- `VIRT.frame(L, R)` (R194): both delay lines, `VIRT_LAST`, and `VIRT_LOC`, which runs once in both modes (R195). -/
def virtFrame (c : Config) (v : Virtualizer) (l r : F64) : Virtualizer × F64 × F64 :=
  let wet := virtWet v l r
  let center := virtCenter wet l r
  let p := bqProcess v.loc (virtSide wet l r)
  let side := sideReduced c.virtSideMode (virtSide wet l r) p.2
  ({ v with
      dly := ⟨dlNext v.dly.l (virtFeed v l v.last.r), dlNext v.dly.r (virtFeed v r v.last.l)⟩
      last := wet
      loc := p.1 },
    fadd center side, fsub center side)

end Sys2Proof.Machine
end

