-- ==== Sys2Proof/Machine/Chain.lean ====
section
/-! DEFINITION. PROCESS and the chain (47_process_chain.md R205 to R212): the stages in their fixed order, frame by
frame. -/

namespace Sys2Proof.Machine

/-- The compressor stage of a frame, or nothing (R205, R206). -/
def compStage (g : Gates) (adj : Stereo Int) (s : State) (l r : F64) : State × F64 × F64 :=
  if g.comp then
    let p := compFrame adj s.comp l r
    ({ s with comp := p.1 }, p.2)
  else (s, l, r)

/-- The bass stage of a frame, or nothing (R164). -/
def bassStage (g : Gates) (s : State) (l r : F64) : State × F64 × F64 :=
  if g.bass then
    let p := bassFrame s.bass l r
    ({ s with bass := p.1 }, p.2)
  else (s, l, r)

/-- The virtualizer stage of a frame, or nothing (R196). -/
def virtStage (c : Config) (g : Gates) (s : State) (l r : F64) : State × F64 × F64 :=
  if g.virt then
    let p := virtFrame c s.virt l r
    ({ s with virt := p.1 }, p.2)
  else (s, l, r)

/-- The equalizer stage of a frame, or nothing (R182). -/
def eqStage (c : Config) (g : Gates) (s : State) (l r : F64) : State × F64 × F64 :=
  if g.eq then
    let p := eqFrame c s.rate s.eq l r
    ({ s with eq := p.1 }, p.2)
  else (s, l, r)

/-- One frame through the running stages in the order of R206. -/
def chainFrame (c : Config) (g : Gates) (adj : Stereo Int) (s : State) (l r : F64) : State × F64 × F64 :=
  let p1 := compStage g adj s l r
  let p2 := bassStage g p1.1 p1.2.1 p1.2.2
  let p3 := virtStage c g p2.1 p2.2.1 p2.2.2
  eqStage c g p3.1 p3.2.1 p3.2.2

/-- The frames of a block in ascending index (R207), left word first (R61): the state after, and the output words. -/
def runFrames (c : Config) (g : Gates) (adj : Stereo Int) : State → List F64 → State × List F64
  | s, l :: r :: rest =>
    let p := chainFrame c g adj s l r
    let q := runFrames c g adj p.1 rest
    (q.1, p.2.1 :: p.2.2 :: q.2)
  | s, _ => (s, [])

/-- The compressor's block step when it runs (R141, R205): the state after it, and `adj` for the frames. -/
def blockStep (c : Config) (g : Gates) (n : Nat) (s : State) : State × Stereo Int :=
  if g.comp then
    let p := compBlock c s.rate n s.sin s.comp
    ({ s with comp := p.1 }, p.2)
  else (s, ⟨0, 0⟩)

/-- The body of PROCESS once its checks have passed (R205): the gates, the block step, the frames. -/
def runBlock (c : Config) (n : Nat) (s : State) : State × List F64 :=
  let g := gatesOf s
  let p := blockStep c g n s
  runFrames c g p.2 p.1 s.sin

/-- What would take a PROCESS out of its spaces, found before it starts (log 12, 13, 14): an input block that does not
hold `2n` words; a cursor off its delay RAM where the virtualizer is to run a frame; a refresh with `EQ_INTERVAL = 0`
among the frames. -/
def processFault (n : Nat) (s : State) : Option Fault :=
  if s.sin.length ≠ 2 * n then some .blockLength
  else if s.virt.en && decide (0 < n) && !(dlInBounds s.virt.dly.l && dlInBounds s.virt.dly.r) then
    some .delayIndex
  else if s.eq.en && decide (s.eq.interval = 0#32) && decide (s.eq.next.toNat < n) then some .divideByZero
  else none

/-- PROCESS (R205) under a configuration: the checks in order, then the block; the response `(OK, ACTIVE)` with the
output block. -/
def processWith (c : Config) (n : BitVec 64) (s : State) : Result :=
  if !s.configured then raise eNotConfigured s
  else if exceeds c.blockMax n.toNat then raise eParamRange s
  else
    match processFault n.toNat s with
    | some f => .fault f
    | none =>
      let p := runBlock c n.toNat s
      .next (reply p.1 statusOk (activeResult p.1) (some p.2))

/-- PROCESS (R205). -/
def execProcess (n : BitVec 64) (s : State) : Result := processWith cfg n s

end Sys2Proof.Machine
end

