-- ==== Sys2Proof/Machine/Configure.lean ====
section
/-! DEFINITION. CONFIGURE (48_commands.md R221). -/

namespace Sys2Proof.Machine

/-- `EQ_INTERVAL = max(1, d2i(RATE ÷ 100.0))` (R31, R179). -/
def eqIntervalOf (rate : F64) : BitVec 32 := satU 32 (max 1 (d2i (fdiv rate eqCadenceDiv)))

/-- The status of the first check that fails, in the order of R221 and R275; `none` when all pass. -/
def configureError (c : Config) (ch encsel : BitVec 8) (rate : F64) : Option (BitVec 8) :=
  if ch ≠ channelCount then some eBadChannels
  else if !legalRate rate then some eBadRate
  else if encMax < encsel then some eParamRange
  else if exceeds c.dlyMax (delayLength rate virtDelayA) then some eBadRate
  else none

/-- A filter designed at once and its history cleared (R221, R153, R192). -/
def designAndClear (c : Config) (kind : BqKind) (f rate p dBGain overallDb : F64) (b : Biquad) : Biquad :=
  bqClear (bqConfigure c kind 0#32 f rate p dBGain overallDb b)

/-- The five shelves' histories cleared (R221). -/
def clearShelves (s : Shelves) : Shelves :=
  { k0 := bqClear s.k0, k1 := bqClear s.k1, k2 := bqClear s.k2, k3 := bqClear s.k3, k4 := bqClear s.k4 }

/-- The compressor's part of CONFIGURE (R153, R221): the two weighting filters. -/
def configureComp (c : Config) (rate : F64) (k : Compressor) : Compressor :=
  { k with
    bp := ⟨designAndClear c .bandpass compBpFreq rate c.compBpBw posZero posZero k.bp.l,
           designAndClear c .bandpass compBpFreq rate c.compBpBw posZero posZero k.bp.r⟩ }

/-- The bass boost's part of CONFIGURE (R162, R221): the filter designed from the stored knobs with interval 0. -/
def configureBass (c : Config) (rate : F64) (b : BassBoost) : BassBoost :=
  { b with lp := bqClear (bassConfigure c 0#32 rate b).lp }

/-- The virtualizer's part of CONFIGURE (R192, R221): delay lines, `VIRT_LAST`, the localization filter. -/
def configureVirt (c : Config) (rate : F64) (v : Virtualizer) : Virtualizer :=
  { v with
    dly := ⟨dlConfigure rate virtDelayA v.dly.l, dlConfigure rate virtDelayB v.dly.r⟩
    last := ⟨posZero, posZero⟩
    loc := designAndClear c .highshelf virtLocFreq rate virtLocQ virtLocGain posZero v.loc }

/-- The equalizer's part of CONFIGURE (R221): counters cleared, the shelves designed at once from the knobs, `EQ_FADE`
and `EQ_LOUD` of the moment, their histories cleared. -/
def configureEq (c : Config) (rate : F64) (e : Equalizer) : Equalizer :=
  let e1 := { e with interval := eqIntervalOf rate, next := 0#32, pwr := ⟨0#64, 0#64⟩ }
  let e2 := eqRefresh c 0#32 rate e1
  { e2 with sh := ⟨clearShelves e2.sh.l, clearShelves e2.sh.r⟩ }

/-- The effects of a CONFIGURE whose checks passed (R221). -/
def configureEffects (c : Config) (encsel : BitVec 8) (rate : F64) (s : State) : State :=
  { s with
    configured := true
    rate := rate
    enc := encsel
    comp := configureComp c rate s.comp
    bass := configureBass c rate s.bass
    virt := configureVirt c rate s.virt
    eq := configureEq c rate s.eq }

/-- CONFIGURE (R221) under a configuration. -/
def configureWith (c : Config) (ch encsel : BitVec 8) (opd : BitVec 64) (s : State) : Result :=
  match configureError c ch encsel ⟨opd⟩ with
  | some e => raise e s
  | none => complete 0#64 (configureEffects c encsel ⟨opd⟩ s)

/-- CONFIGURE (R221). -/
def execConfigure (ch encsel : BitVec 8) (opd : BitVec 64) (s : State) : Result := configureWith cfg ch encsel opd s

end Sys2Proof.Machine
end

