-- ==== Sys2Proof/Machine/GetParam.lean ====
section
/-! DEFINITION. The 17 GETP commands (48_commands.md R240 to R257): each answers its knob's encoding (R85) and changes
no state, before and after CONFIGURE, whatever `OPD` holds. -/

namespace Sys2Proof.Machine

/-- GETP.MASTER_EN (R241). -/
def execGetpMasterEn (s : State) : Result := complete (encodeBool s.masterEn) s

/-- GETP.COMP_EN (R242). -/
def execGetpCompEn (s : State) : Result := complete (encodeBool s.comp.en) s

/-- GETP.COMP_RATIO (R243). -/
def execGetpCompRatio (s : State) : Result := complete (encodeF64 s.comp.ratio) s

/-- GETP.BASS_EN (R244). -/
def execGetpBassEn (s : State) : Result := complete (encodeBool s.bass.en) s

/-- GETP.BASS_STRENGTH (R245). -/
def execGetpBassStrength (s : State) : Result := complete (encodeI64 s.bass.strength) s

/-- GETP.BASS_FREQ (R246). -/
def execGetpBassFreq (s : State) : Result := complete (encodeF64 s.bass.freq) s

/-- GETP.EQ_EN (R247). -/
def execGetpEqEn (s : State) : Result := complete (encodeBool s.eq.en) s

/-- GETP.EQ_BAND0 (R248). -/
def execGetpEqBand0 (s : State) : Result := complete (encodeI64 s.eq.band.b0) s

/-- GETP.EQ_BAND1 (R249). -/
def execGetpEqBand1 (s : State) : Result := complete (encodeI64 s.eq.band.b1) s

/-- GETP.EQ_BAND2 (R250). -/
def execGetpEqBand2 (s : State) : Result := complete (encodeI64 s.eq.band.b2) s

/-- GETP.EQ_BAND3 (R251). -/
def execGetpEqBand3 (s : State) : Result := complete (encodeI64 s.eq.band.b3) s

/-- GETP.EQ_BAND4 (R252). -/
def execGetpEqBand4 (s : State) : Result := complete (encodeI64 s.eq.band.b4) s

/-- GETP.EQ_BAND5 (R253). -/
def execGetpEqBand5 (s : State) : Result := complete (encodeI64 s.eq.band.b5) s

/-- GETP.EQ_LOUD_EN (R254). -/
def execGetpEqLoudEn (s : State) : Result := complete (encodeBool s.eq.loudEn) s

/-- GETP.EQ_LOUD_REF (R255). -/
def execGetpEqLoudRef (s : State) : Result := complete (encodeF64 s.eq.loudRef) s

/-- GETP.VIRT_EN (R256). -/
def execGetpVirtEn (s : State) : Result := complete (encodeBool s.virt.en) s

/-- GETP.VIRT_STRENGTH (R257). -/
def execGetpVirtStrength (s : State) : Result := complete (encodeI64 s.virt.strength) s

end Sys2Proof.Machine
end

