-- ==== Sys2Proof/Machine/SetParam.lean ====
section
/-! DEFINITION. The 17 SETP commands (48_commands.md R222 to R239), each the template of R222 with its operand form and
its effect.  A SETP is accepted before and after CONFIGURE; it changes no fade counter, filter history or delay cell. -/

namespace Sys2Proof.Machine

/-- The effects of SETP.BASS_STRENGTH (R227): the knob, `BASS_Q` (R161), then `BASS.retune()` (R162). -/
def setBassStrength (c : Config) (v : BitVec 64) (s : State) : State :=
  { s with
    bass := bassRetune c s.configured s.rate { s.bass with strength := v, q := bassQOf v } }

/-- The effects of SETP.BASS_FREQ (R228): the knob, then `BASS.retune()` (R162). -/
def setBassFreq (c : Config) (v : F64) (s : State) : State :=
  { s with bass := bassRetune c s.configured s.rate { s.bass with freq := v } }

/-- The effects of SETP.VIRT_STRENGTH (R239): the knob, then `VIRT.derive()` (R191). -/
def setVirtStrength (c : Config) (v : BitVec 64) (s : State) : State :=
  { s with virt := virtDerive c { s.virt with strength := v } }

/-- SETP.MASTER_EN (R223): read only by `isActive` (D44). -/
def execSetpMasterEn (opd : BitVec 64) (s : State) : Result :=
  setKnob (boolOperand opd) (fun v s => { s with masterEn := v }) s

/-- SETP.COMP_EN (R224): from the next PROCESS the run condition and the fade direction follow it. -/
def execSetpCompEn (opd : BitVec 64) (s : State) : Result :=
  setKnob (boolOperand opd) (fun v s => { s with comp := { s.comp with en := v } }) s

/-- SETP.COMP_RATIO (R225): 1.0 to 11.0, both ends included. -/
def execSetpCompRatio (opd : BitVec 64) (s : State) : Result :=
  setKnob (f64Operand legalRatio opd) (fun v s => { s with comp := { s.comp with ratio := v } }) s

/-- SETP.BASS_EN (R226): the filter is neither cleared nor retuned. -/
def execSetpBassEn (opd : BitVec 64) (s : State) : Result :=
  setKnob (boolOperand opd) (fun v s => { s with bass := { s.bass with en := v } }) s

/-- SETP.BASS_STRENGTH (R227): 0 to 1000; then `BASS_Q` and `BASS.retune()`. -/
def execSetpBassStrength (opd : BitVec 64) (s : State) : Result :=
  setKnob (i64Operand 0 strengthMax opd) (setBassStrength cfg) s

/-- SETP.BASS_FREQ (R228): finite and above 0; then `BASS.retune()`. -/
def execSetpBassFreq (opd : BitVec 64) (s : State) : Result :=
  setKnob (f64Operand legalFreq opd) (setBassFreq cfg) s

/-- SETP.EQ_EN (R229): `EQ_FADE` is not reset. -/
def execSetpEqEn (opd : BitVec 64) (s : State) : Result :=
  setKnob (boolOperand opd) (fun v s => { s with eq := { s.eq with en := v } }) s

/-- SETP.EQ_BAND0 (R230): the gain of the 15.625 Hz band; the next refresh reads it (R180). -/
def execSetpEqBand0 (opd : BitVec 64) (s : State) : Result :=
  setKnob (i64Operand eqGainMin eqGainMax opd) (fun v s => { s with eq := { s.eq with band := { s.eq.band with b0 := v } } }) s

/-- SETP.EQ_BAND1 (R231): the gain of the 62.5 Hz band; the next refresh reads it (R180). -/
def execSetpEqBand1 (opd : BitVec 64) (s : State) : Result :=
  setKnob (i64Operand eqGainMin eqGainMax opd) (fun v s => { s with eq := { s.eq with band := { s.eq.band with b1 := v } } }) s

/-- SETP.EQ_BAND2 (R232): the gain of the 250 Hz band; the next refresh reads it (R180). -/
def execSetpEqBand2 (opd : BitVec 64) (s : State) : Result :=
  setKnob (i64Operand eqGainMin eqGainMax opd) (fun v s => { s with eq := { s.eq with band := { s.eq.band with b2 := v } } }) s

/-- SETP.EQ_BAND3 (R233): the gain of the 1000 Hz band; the next refresh reads it (R180). -/
def execSetpEqBand3 (opd : BitVec 64) (s : State) : Result :=
  setKnob (i64Operand eqGainMin eqGainMax opd) (fun v s => { s with eq := { s.eq with band := { s.eq.band with b3 := v } } }) s

/-- SETP.EQ_BAND4 (R234): the gain of the 4000 Hz band; the next refresh reads it (R180). -/
def execSetpEqBand4 (opd : BitVec 64) (s : State) : Result :=
  setKnob (i64Operand eqGainMin eqGainMax opd) (fun v s => { s with eq := { s.eq with band := { s.eq.band with b4 := v } } }) s

/-- SETP.EQ_BAND5 (R235): the gain of the 16000 Hz band; the next refresh reads it (R180). -/
def execSetpEqBand5 (opd : BitVec 64) (s : State) : Result :=
  setKnob (i64Operand eqGainMin eqGainMax opd) (fun v s => { s with eq := { s.eq with band := { s.eq.band with b5 := v } } }) s

/-- SETP.EQ_LOUD_EN (R236): read at the next refresh. -/
def execSetpEqLoudEn (opd : BitVec 64) (s : State) : Result :=
  setKnob (boolOperand opd) (fun v s => { s with eq := { s.eq with loudEn := v } }) s

/-- SETP.EQ_LOUD_REF (R237): any finite value; read at the next refresh. -/
def execSetpEqLoudRef (opd : BitVec 64) (s : State) : Result :=
  setKnob (f64Operand legalLoudRef opd) (fun v s => { s with eq := { s.eq with loudRef := v } }) s

/-- SETP.VIRT_EN (R238): delay lines and `VIRT_LAST` are not cleared. -/
def execSetpVirtEn (opd : BitVec 64) (s : State) : Result :=
  setKnob (boolOperand opd) (fun v s => { s with virt := { s.virt with en := v } }) s

/-- SETP.VIRT_STRENGTH (R239): 0 to 1000; then `VIRT.derive()`. -/
def execSetpVirtStrength (opd : BitVec 64) (s : State) : Result :=
  setKnob (i64Operand 0 strengthMax opd) (setVirtStrength cfg) s

end Sys2Proof.Machine
end

