-- ==== Sys2Proof/Machine/Dispatch.lean ====
section
/-! DEFINITION. One arm per command of the opcode table (30_encoding.md R91), each a direct call of its meaning. -/

namespace Sys2Proof.Machine

def exec (i : Instr) (s : State) : Host.Outcome State Fault Refusal :=
  match i with
  | .configure ch encsel opd => Sys2Proof.Machine.execConfigure ch encsel opd s
  | .process n => Sys2Proof.Machine.execProcess n s
  | .setpMasterEn opd => Sys2Proof.Machine.execSetpMasterEn opd s
  | .setpCompEn opd => Sys2Proof.Machine.execSetpCompEn opd s
  | .setpCompRatio opd => Sys2Proof.Machine.execSetpCompRatio opd s
  | .setpBassEn opd => Sys2Proof.Machine.execSetpBassEn opd s
  | .setpBassStrength opd => Sys2Proof.Machine.execSetpBassStrength opd s
  | .setpBassFreq opd => Sys2Proof.Machine.execSetpBassFreq opd s
  | .setpEqEn opd => Sys2Proof.Machine.execSetpEqEn opd s
  | .setpEqBand0 opd => Sys2Proof.Machine.execSetpEqBand0 opd s
  | .setpEqBand1 opd => Sys2Proof.Machine.execSetpEqBand1 opd s
  | .setpEqBand2 opd => Sys2Proof.Machine.execSetpEqBand2 opd s
  | .setpEqBand3 opd => Sys2Proof.Machine.execSetpEqBand3 opd s
  | .setpEqBand4 opd => Sys2Proof.Machine.execSetpEqBand4 opd s
  | .setpEqBand5 opd => Sys2Proof.Machine.execSetpEqBand5 opd s
  | .setpEqLoudEn opd => Sys2Proof.Machine.execSetpEqLoudEn opd s
  | .setpEqLoudRef opd => Sys2Proof.Machine.execSetpEqLoudRef opd s
  | .setpVirtEn opd => Sys2Proof.Machine.execSetpVirtEn opd s
  | .setpVirtStrength opd => Sys2Proof.Machine.execSetpVirtStrength opd s
  | .getpMasterEn => Sys2Proof.Machine.execGetpMasterEn s
  | .getpCompEn => Sys2Proof.Machine.execGetpCompEn s
  | .getpCompRatio => Sys2Proof.Machine.execGetpCompRatio s
  | .getpBassEn => Sys2Proof.Machine.execGetpBassEn s
  | .getpBassStrength => Sys2Proof.Machine.execGetpBassStrength s
  | .getpBassFreq => Sys2Proof.Machine.execGetpBassFreq s
  | .getpEqEn => Sys2Proof.Machine.execGetpEqEn s
  | .getpEqBand0 => Sys2Proof.Machine.execGetpEqBand0 s
  | .getpEqBand1 => Sys2Proof.Machine.execGetpEqBand1 s
  | .getpEqBand2 => Sys2Proof.Machine.execGetpEqBand2 s
  | .getpEqBand3 => Sys2Proof.Machine.execGetpEqBand3 s
  | .getpEqBand4 => Sys2Proof.Machine.execGetpEqBand4 s
  | .getpEqBand5 => Sys2Proof.Machine.execGetpEqBand5 s
  | .getpEqLoudEn => Sys2Proof.Machine.execGetpEqLoudEn s
  | .getpEqLoudRef => Sys2Proof.Machine.execGetpEqLoudRef s
  | .getpVirtEn => Sys2Proof.Machine.execGetpVirtEn s
  | .getpVirtStrength => Sys2Proof.Machine.execGetpVirtStrength s

end Sys2Proof.Machine
end

