-- ==== Sys2Proof/Machine/Step.lean ====
section
/-! DEFINITION. One step: the next command the host has issued, run to completion (R20, R68, R80). -/

namespace Sys2Proof.Machine

/-- What a command does (R90): the instruction it decodes to, or `E_ILLEGAL_CMD` with nothing changed (R271, R274).  An input
block that comes with a legal CONFIGURE, SETP or GETP, which R80 and R82 give none, is ignored: DESIGN CHOICE (log 24). -/
def runCommand (cmd : Command) (s : State) : Result :=
  match decode cmd.cw cmd.opd with
  | .ok i => exec i s
  | .error _ => raise eIllegalCmd s

/-- One step.  With no command pending the block is idle and holds all state (R277, R287) (log 2). -/
def step (s : State) : Host.Outcome State Fault Refusal :=
  match s.inbox with
  | [] => .next s
  | cmd :: rest => runCommand cmd (accept s cmd.sin rest)

/-- `s` with the command whose bits are `w` issued next, its input block empty (log 2, 3). -/
def State.withFetchWord (s : State) (nbits w : Nat) : State :=
  { s with inbox := { cw := (tableWords nbits w).1, opd := (tableWords nbits w).2, sin := [] } :: s.inbox }

end Sys2Proof.Machine
end

