-- ==== Sys2Proof/Machine/Fir.lean ====
section
/-! DEFINITION. FIR16 (42_fir16.md R130 to R133): its two operations.  No command calls them (R92, R130). -/

namespace Sys2Proof.Machine

/-- `FIR.load(c[0..15])` (R131): the history is untouched. -/
def firLoad (c : Vector F64 16) (u : Fir16) : Fir16 := { u with c := c }

/-- The history after one input (R132): every sample one place older, `h[0]` the newest. -/
def firShift (h : Vector F64 16) (x : F64) : Vector F64 16 :=
  #v[x, h[0], h[1], h[2], h[3], h[4], h[5], h[6], h[7], h[8], h[9], h[10], h[11], h[12], h[13], h[14]]

/-- The sum of products of R132: rounded one by one and added in ascending `k`, from `c[0] × h[0]` on. -/
def firSum (c h : Vector F64 16) : F64 :=
  match List.zipWith fmul c.toList h.toList with
  | [] => posZero
  | p :: ps => ps.foldl fadd p

/-- `FIR.process(x) -> y` (R132). -/
def firProcess (u : Fir16) (x : F64) : Fir16 × F64 :=
  ({ u with h := firShift u.h x }, firSum u.c (firShift u.h x))

end Sys2Proof.Machine
end

