-- ==== Sys2Proof/Machine/Defaults.lean ====
section
/-! DEFINITION. The values the spec names for the open parameters: the defaults of R9, and the suggestions of R153 and
R174.  They are not the machine's (`cfg` leaves every open parameter free, log 7); a claim that needs one takes it as a
premise through these. -/

namespace Sys2Proof.Machine

/-- `COMP_EPS = 1e-10` (R9, R145). -/
def defaultCompEps : F64 := ⟨0x3DDB7CDFD9D7BDBB#64⟩

/-- A record with the defaults of R9 where R9 gives one; the others, and the elementary functions, stay as they are. -/
def specDefaults (c : Config) : Config :=
  { c with
    bqDesign := .cookbook
    shelfParamMode := .slope
    compEps := defaultCompEps
    compSoften := softenQuadratic
    bassInterval := 0#32
    eqShelfSlope := fone
    virtSideMode := .filter
    rst := rstDefaults }

/-- `COMP_BP_BW = 3.47` octaves, suggested by R153. -/
def suggestedBpBw : F64 := ⟨0x400BC28F5C28F5C3#64⟩

/-- `EQ_V20` as R174 suggests it: 42.3, 28.0, 10.0, 0.0, −3.0, 8.0 dB. -/
def suggestedV20 : BandTable :=
  { b0 := ⟨0x4045266666666666#64⟩
    b1 := ⟨0x403C000000000000#64⟩
    b2 := ⟨0x4024000000000000#64⟩
    b3 := ⟨0x0000000000000000#64⟩
    b4 := ⟨0xC008000000000000#64⟩
    b5 := ⟨0x4020000000000000#64⟩ }

/-- `EQ_V100` as R174 suggests it: 0.0, 0.0, 0.0, 0.0, −1.0, −1.5 dB. -/
def suggestedV100 : BandTable :=
  { b0 := ⟨0x0000000000000000#64⟩
    b1 := ⟨0x0000000000000000#64⟩
    b2 := ⟨0x0000000000000000#64⟩
    b3 := ⟨0x0000000000000000#64⟩
    b4 := ⟨0xBFF0000000000000#64⟩
    b5 := ⟨0xBFF8000000000000#64⟩ }

/-- The defaults, and the suggestions where R9 has none. -/
def specSuggestions (c : Config) : Config :=
  { specDefaults c with compBpBw := suggestedBpBw, eqV20 := suggestedV20, eqV100 := suggestedV100 }

end Sys2Proof.Machine
end

