-- ==== Sys2Proof/WellFormed.lean ====
section
/-! DEFINITION. Well-formed commands.

Every term of `Instr` is well-formed: its fields have the widths of R81 and R82, decoding is total over all words
(R89), and a value outside a knob's range is an error of the command when it runs, not an ill-formed one (R89 "`OPD` is
never the cause of illegality").  What the host must respect beside that is the shape of the input block: a PROCESS
carries exactly `2n` words (R87), every other command none (R82, column "extra input"). -/

namespace Sys2Proof

/-- How many input words a command of this instruction carries (R82, R87). -/
def Instr.blockWords : Instr → Nat
  | .process n => 2 * n.toNat
  | _ => 0

/-- The input block fits the instruction. -/
def wellFormed (i : Instr) (sin : List F64) : Bool := decide (sin.length = i.blockWords)

end Sys2Proof
end

