-- ==== Sys2Proof/Safety.lean ====
section
/-! DEFINITION. The terms claims use: the invariant of the machine, a safe step, and the accuracy a claim about numbers
may assume of the elementary functions (R14). -/

namespace Sys2Proof.Machine

/-! ### The invariant -/

/-- R24 (i): with no call left, the current set is the target set, bit for bit. -/
def BiquadSettled (b : Biquad) : Prop := b.rem = 0#32 → b.cur = b.tgt

/-- The five shelves of a channel are settled, and each has `n` calls left. -/
structure ShelvesRamp (n : BitVec 32) (s : Shelves) : Prop where
  settled0 : BiquadSettled s.k0
  settled1 : BiquadSettled s.k1
  settled2 : BiquadSettled s.k2
  settled3 : BiquadSettled s.k3
  settled4 : BiquadSettled s.k4
  rem0 : s.k0.rem = n
  rem1 : s.k1.rem = n
  rem2 : s.k2.rem = n
  rem3 : s.k3.rem = n
  rem4 : s.k4.rem = n

/-- A delay line in order: its cursor in bounds (R26, R124 (i)), its words in canonical form (log 11) and none at or
above `LEN` (R26 "cells beyond `LEN − 1` do not exist"). -/
structure DelayOk (d : DelayLine) : Prop where
  cursor : d.cur.toNat < max d.len.toNat 1
  canonical : memWf d.buf = true
  inside : ∀ p ∈ d.buf, p.1 < d.len.toNat

/-- The compressor's registers in order: fade (R29), ratio (R30), `COMP_USER` as reset left it (R32, D34), weighting
filters settled with no ramp (R153). -/
structure CompressorOk (k : Compressor) : Prop where
  fade : k.fade.toNat ≤ fadeMax
  ratio : isFinite k.ratio = true ∧ legalRatio k.ratio = true
  user : k.user = ⟨compUnity, compUnity⟩
  bpL : BiquadSettled k.bp.l ∧ k.bp.l.rem = 0#32
  bpR : BiquadSettled k.bp.r ∧ k.bp.r.rem = 0#32

/-- The bass boost's registers in order: knobs legal (R30), `BASS_Q` derived (R31), the filter settled (R24). -/
structure BassOk (b : BassBoost) : Prop where
  strength : 0 ≤ b.strength.toInt ∧ b.strength.toInt ≤ strengthMax
  freq : isFinite b.freq = true ∧ legalFreq b.freq = true
  q : b.q = bassQOf b.strength
  lp : BiquadSettled b.lp

/-- A band gain in its range (R30). -/
def BandOk (v : BitVec 64) : Prop := eqGainMin ≤ v.toInt ∧ v.toInt ≤ eqGainMax

/-- The equalizer's registers in order: knobs legal (R30), fade (R29), `EQ_INTERVAL ≥ 1` (R31), the refresh counter no
greater, and every ramp ending exactly when the next refresh is due (R178). -/
structure EqualizerOk (e : Equalizer) : Prop where
  band0 : BandOk e.band.b0
  band1 : BandOk e.band.b1
  band2 : BandOk e.band.b2
  band3 : BandOk e.band.b3
  band4 : BandOk e.band.b4
  band5 : BandOk e.band.b5
  loudRef : isFinite e.loudRef = true
  fade : e.fade.toNat ≤ fadeMax
  interval : 1 ≤ e.interval.toNat
  next : e.next.toNat ≤ e.interval.toNat
  left : ShelvesRamp e.next e.sh.l
  right : ShelvesRamp e.next e.sh.r

/-- The virtualizer's registers in order: the knob legal (R30), the derived registers as R31 and R191 give them, the
delay lines in order, the localization filter settled with no ramp (R192). -/
structure VirtualizerOk (v : Virtualizer) : Prop where
  strength : 0 ≤ v.strength.toInt ∧ v.strength.toInt ≤ strengthMax
  deep : v.deep = virtDeepOf v.strength
  wide : v.wide = virtWideOf v.strength
  level : v.level = virtLevelOf cfg v.strength
  dlyL : DelayOk v.dly.l
  dlyR : DelayOk v.dly.r
  loc : BiquadSettled v.loc ∧ v.loc.rem = 0#32

/-- The invariant of the machine: every register holds a value the rules let it hold.  Reset has it and every step
keeps it (`Obligations.ResetHasInvariant`, `Obligations.StepKeepsInvariant`). -/
structure StateOk (s : State) : Prop where
  rate : s.configured = true → legalRate s.rate = true
  enc : s.enc ≤ encMax
  comp : CompressorOk s.comp
  bass : BassOk s.bass
  eq : EqualizerOk s.eq
  virt : VirtualizerOk s.virt
  fir : s.fir = Fir16.reset

/-! ### Safe steps -/

/-- The step does not stop with a fault or a refusal. -/
def SafeStep (s : State) : Prop := ∃ t, step s = .next t

/-- The host keeps its contract for the next command: its input block fits it (R87), if it decodes. -/
def HostOk (s : State) : Prop :=
  ∀ cmd rest i, s.inbox = cmd :: rest → decode cmd.cw cmd.opd = .ok i → wellFormed i cmd.sin = true

/-! ### The accuracy of the elementary functions -/

/-- The real number a finite word stands for (R11). -/
noncomputable def toReal (x : F64) : ℝ := (fsigned x : ℝ) * (2 : ℝ) ^ fexpo x

/-- `y` is within one unit in the last place of the real number `v`: R14's "small relative error", the bound it gives
as its example, asked only where `v` is in the normal range of binary64. -/
def NearlyEqual (y : F64) (v : ℝ) : Prop :=
  (2 : ℝ) ^ (-1022 : ℤ) ≤ |v| → |v| < (2 : ℝ) ^ (1023 : ℤ) →
    isFinite y = true ∧ |toReal y - v| ≤ (2 : ℝ) ^ (-52 : ℤ) * |v|

/-- The fourth property of R14, as a premise a claim about numbers can take (log 5): on finite arguments each function
is within one unit in the last place of the real function. -/
def ElementaryFaithful (c : Config) : Prop :=
  ∀ x : F64, isFinite x = true →
    NearlyEqual (fsin c x) (Real.sin (toReal x)) ∧
    NearlyEqual (fcos c x) (Real.cos (toReal x)) ∧
    NearlyEqual (fsinh c x) (Real.sinh (toReal x)) ∧
    NearlyEqual (fpow10 c x) ((10 : ℝ) ^ toReal x) ∧
    (0 < toReal x → NearlyEqual (flog10 c x) (Real.logb 10 (toReal x)))

/-! ### Shapes of state that claims name -/

/-- The block's registers without the port's last answer, to compare two states by. -/
def State.registers (s : State) : State := { s with response := none }

/-- Every knob's SETP, as a function of its operand, with its GETP (R84, R30). -/
def knobPairs : List ((BitVec 64 → Instr) × Instr) :=
  [(.setpMasterEn, .getpMasterEn), (.setpCompEn, .getpCompEn), (.setpCompRatio, .getpCompRatio),
   (.setpBassEn, .getpBassEn), (.setpBassStrength, .getpBassStrength), (.setpBassFreq, .getpBassFreq),
   (.setpEqEn, .getpEqEn), (.setpEqBand0, .getpEqBand0), (.setpEqBand1, .getpEqBand1),
   (.setpEqBand2, .getpEqBand2), (.setpEqBand3, .getpEqBand3), (.setpEqBand4, .getpEqBand4),
   (.setpEqBand5, .getpEqBand5), (.setpEqLoudEn, .getpEqLoudEn), (.setpEqLoudRef, .getpEqLoudRef),
   (.setpVirtEn, .getpVirtEn), (.setpVirtStrength, .getpVirtStrength)]

/-- The command is a SETP (R82). -/
def IsSetp (i : Instr) : Prop := ∃ p ∈ knobPairs, ∃ opd, i = p.1 opd

/-- The command is a GETP (R82). -/
def IsGetp (i : Instr) : Prop := ∃ p ∈ knobPairs, i = p.2

/-- Every coefficient of the set is finite. -/
def FiniteSet (k : Coeffs) : Prop :=
  isFinite k.a0 = true ∧ isFinite k.a1 = true ∧ isFinite k.a2 = true ∧ isFinite k.b1 = true ∧ isFinite k.b2 = true

/-- `r` is the correctly rounded value of the real number `v` (R12): no finite word is nearer, a tie goes to the even
significand; an infinity only from half a unit beyond the greatest word on, with the sign of `v`. -/
def RoundsTo (r : F64) (v : ℝ) : Prop :=
  (|v| < (2 ^ 54 - 1) * (2 : ℝ) ^ (970 : ℤ) → isFinite r = true ∧ ∀ z, isFinite z = true →
    |toReal r - v| ≤ |toReal z - v| ∧
    (|toReal z - v| = |toReal r - v| → toReal z ≠ toReal r → fsig r % 2 = 0)) ∧
  ((2 ^ 54 - 1) * (2 : ℝ) ^ (970 : ℤ) ≤ |v| → r = ofParts (decide (v < 0)) infMag)

end Sys2Proof.Machine
end

