-- ==== Sys2Proof/Certificates/Slice0/Obligations.lean ====
section
/-! DEFINITION. The statements for the provers.  Each docstring says which rules of spec/ its statement rests on; what is
the model's own choice is named with its log entry. -/

open Sys2Proof Sys2Proof.Machine

/-! ### Encoding -/

/-- R81, R82, R90, R91, R65: every command's words, and their 12 bytes, decode to the command.  (The order of the two words
in the bytes is the model's choice, log 3.) -/
def Obligations.DecodeInvertsEncode : Prop :=
  ∀ i : Instr, decode (encode i).1 (encode i).2 = .ok i ∧ decodeBytes (encodeBytes i) = .ok i

/-- R90, R91, R240: each word that decodes is the one word of its command; the operand is part of it but for a GETP,
which ignores it. -/
def Obligations.EncodeInvertsDecode : Prop :=
  ∀ (cw : BitVec 32) (opd : BitVec 64) (i : Instr), decode cw opd = .ok i →
    (encode i).1 = cw ∧ (opcOf cw ≠ 0x03#8 → (encode i).2 = opd) ∧
    (opcOf cw = 0x03#8 → ∀ other : BitVec 64, decode cw other = .ok i)

/-- R89: the four ways a command word is illegal, what an illegal command returns, and that the operand never decides. -/
def Obligations.IllegalCommandWords : Prop :=
  ∀ (cw : BitVec 32) (opd : BitVec 64),
    ((∃ e, decode cw opd = .error e) ↔
      opcOf cw ∉ [0x01#8, 0x02#8, 0x03#8, 0x04#8] ∨
      ((opcOf cw = 0x02#8 ∨ opcOf cw = 0x03#8) ∧
        pidOf cw ∉ [0x00#8, 0x10#8, 0x11#8, 0x20#8, 0x21#8, 0x22#8, 0x30#8, 0x31#8, 0x32#8, 0x33#8, 0x34#8,
          0x35#8, 0x36#8, 0x37#8, 0x38#8, 0x40#8, 0x41#8]) ∨
      ((opcOf cw = 0x01#8 ∨ opcOf cw = 0x04#8) ∧ pidOf cw ≠ 0x00#8) ∨
      ((opcOf cw = 0x02#8 ∨ opcOf cw = 0x03#8 ∨ opcOf cw = 0x04#8) ∧ auxOf cw ≠ 0x0000#16)) ∧
    (∀ other : BitVec 64, (∃ e, decode cw opd = .error e) → ∃ e, decode cw other = .error e) ∧
    ((∃ e, decode cw opd = .error e) →
      ∀ (sin : List F64) (s : State), runCommand ⟨cw, opd, sin⟩ s = .next (reply s 0x01#8 0#64 none))

/-- R91 and the words of 95_test_vectors.md 2.1: what a few words decode to. -/
def Obligations.WrittenWordsDecode : Prop :=
  decode 0x01000102#32 0x40E5888000000000#64 = .ok (.configure 2#8 1#8 0x40E5888000000000#64) ∧
  decode 0x0100FF07#32 0#64 = .ok (.configure 7#8 255#8 0#64) ∧
  decode 0x02210000#32 1000#64 = .ok (.setpBassStrength 1000#64) ∧
  decode 0x02360000#32 0xFFFFFFFFFFFFFFFF#64 = .ok (.setpEqBand5 0xFFFFFFFFFFFFFFFF#64) ∧
  decode 0x03380000#32 0xDEADBEEF#64 = .ok .getpEqLoudRef ∧
  decode 0x04000000#32 119#64 = .ok (.process 119#64) ∧
  decode 0x01010002#32 0#64 = .error .pidNotZero ∧
  decode 0x02210001#32 0#64 = .error .auxNotZero ∧
  decode 0x02120000#32 0#64 = .error .reservedPid ∧
  decode 0x04000001#32 0#64 = .error .auxNotZero ∧
  decode 0x00000000#32 0#64 = .error .reservedOpc ∧
  decode 0xFFFFFFFF#32 0#64 = .error .reservedOpc

/-- R65: each word on a transport goes with its byte of bits [7:0] first.  The framing is the model's choice (DESIGN CHOICE,
log 3): a command's twelve bytes are the command word's and then the operand's, a response's nine the status and then the
result's, a block's words follow one another, nothing between. -/
def Obligations.TransportIsLittleEndian : Prop :=
  (∀ (cw : BitVec 32) (opd : BitVec 64),
    (commandBytes cw opd).length = 12 ∧
    (∀ k, k < 4 → (commandBytes cw opd)[k]? = some (bitField cw (8 * k) 8)) ∧
    (∀ k, k < 8 → (commandBytes cw opd)[4 + k]? = some (bitField opd (8 * k) 8))) ∧
  (∀ (status : BitVec 8) (res : BitVec 64),
    (responseBytes status res).length = 9 ∧ (responseBytes status res)[0]? = some status ∧
    (∀ k, k < 8 → (responseBytes status res)[1 + k]? = some (bitField res (8 * k) 8))) ∧
  (∀ block : List F64,
    (blockBytes block).length = 8 * block.length ∧
    ∀ (j : Nat) (x : F64), block[j]? = some x → ∀ k, k < 8 →
      (blockBytes block)[8 * j + k]? = some (bitField x.bits (8 * k) 8))

/-! ### The step -/

/-- R80, R90, R277: a step takes the next command off the host's list and runs the instruction its words decode to, on
the state with that command's input block on the port; with no command pending it holds all state (log 1, 2).  (A block on a
command other than PROCESS does not stop it: DESIGN CHOICE, log 24.) -/
def Obligations.StepRunsDecodedCommand : Prop :=
  (∀ (s : State) (cmd : Command) (rest : List Command) (i : Instr), s.inbox = cmd :: rest →
    decode cmd.cw cmd.opd = .ok i → step s = exec i { s with inbox := rest, sin := cmd.sin }) ∧
  (∀ s : State, s.inbox = [] → step s = .next s)

/-- R271: a word that decodes to no command is answered with `E_ILLEGAL_CMD`, its operand and input block ignored. -/
def Obligations.StepRefusesIllegalCommand : Prop :=
  ∀ (s : State) (cmd : Command) (rest : List Command) (e : DecodeError), s.inbox = cmd :: rest →
    decode cmd.cw cmd.opd = .error e →
    step s = .next { s with inbox := rest, sin := [], response := some ⟨0x01#8, 0#64, none⟩ }

/-! ### Reset and the invariant -/

/-- R38, R31: every value the spec gives for reset, but for `RATE` and `ENC`, which it leaves unspecified.  The last clause is
the model's reading: an instance with other `RST_*` values starts from them (R9, R291), its derived registers computed from
them (R31's derived sentence; DEDUCED, log 9), and differs in nothing else, `RATE` and `ENC` included, which are the same on
every instance by the model's choice alone (DESIGN CHOICE, log 4). -/
def Obligations.ResetValues : Prop :=
  let s := State.reset
  let one : F64 := ⟨0x3FF0000000000000#64⟩
  let zero : F64 := ⟨0#64⟩
  let filter : Biquad := ⟨⟨one, zero, zero, zero, zero⟩, ⟨one, zero, zero, zero, zero⟩, 0#32, zero, zero⟩
  let line : DelayLine := ⟨0#32, 0#32, []⟩
  let shelves : Shelves := ⟨filter, filter, filter, filter, filter⟩
  s.configured = false ∧ s.masterEn = false ∧ s.comp.en = false ∧ s.bass.en = false ∧ s.eq.en = false ∧
  s.eq.loudEn = false ∧ s.virt.en = false ∧ s.comp.ratio = one ∧ s.bass.strength = 0#64 ∧
  s.bass.freq = ⟨0x404B800000000000#64⟩ ∧ s.bass.q = ⟨0x3FE0000000000000#64⟩ ∧
  s.eq.band = ⟨0#64, 0#64, 0#64, 0#64, 0#64, 0#64⟩ ∧ s.eq.loudRef = zero ∧ s.virt.strength = 0#64 ∧
  s.virt.deep = false ∧ s.virt.wide = false ∧ s.virt.level = 0#64 ∧ s.comp.fade = 0#8 ∧ s.eq.fade = 0#8 ∧
  s.comp.cur = ⟨0x1000000#64, 0x1000000#64⟩ ∧ s.comp.user = ⟨0x1000000#64, 0x1000000#64⟩ ∧
  s.eq.loud = ⟨⟨0x4049000000000000#64⟩, ⟨0x4049000000000000#64⟩⟩ ∧ s.eq.pwr = ⟨0#64, 0#64⟩ ∧ s.eq.next = 0#32 ∧
  s.eq.interval = 1#32 ∧ s.virt.last = ⟨zero, zero⟩ ∧ s.comp.bp = ⟨filter, filter⟩ ∧ s.bass.lp = filter ∧
  s.eq.sh = ⟨shelves, shelves⟩ ∧ s.virt.loc = filter ∧ s.virt.dly = ⟨line, line⟩ ∧
  s.fir.c.toList = one :: List.replicate 15 zero ∧ s.fir.h.toList = List.replicate 16 zero ∧
  ∀ c : Config, State.resetWith c =
    { s with
      masterEn := c.rst.masterEn
      comp := { s.comp with ratio := c.rst.compRatio }
      bass :=
        { s.bass with
          strength := c.rst.bassStrength
          q := fadd ⟨0x3FE0000000000000#64⟩ (fdiv (i2d c.rst.bassStrength.toInt) ⟨0x4084D00000000000#64⟩) }
      eq := { s.eq with loudRef := c.rst.eqLoudRef, loud := ⟨c.rst.eqLoud, c.rst.eqLoud⟩ }
      virt :=
        { s.virt with
          strength := c.rst.virtStrength
          deep := decide (c.rst.virtStrength ≠ 0#64)
          wide := decide (500 ≤ c.rst.virtStrength.toInt)
          level := virtLevelOf c c.rst.virtStrength } }

/-- The state after reset has the invariant (R24, R26, R29, R30, R31).  Its clause on `ENC` rests on the model's choice of
a reset value (DESIGN CHOICE, log 4). -/
def Obligations.ResetHasInvariant : Prop := StateOk State.reset

/-- R24, R26, R29, R30, R31, R32, R124, R133, R153, R178: from every state that has the invariant, a step that answers a
next state gives one that has it. -/
def Obligations.StepKeepsInvariant : Prop :=
  ∀ s t : State, StateOk s → step s = .next t → StateOk t

/-- R66, R276: in a state with the invariant a step does not stop, whatever well-formed command is next (R87). -/
def Obligations.StepNeverStops : Prop :=
  ∀ s : State, StateOk s → HostOk s → SafeStep s

/-! ### SETP -/

/-- R223, R224, R226, R229, R236, R238: the six bool knobs take 0 and 1 and nothing else, and write nothing else. -/
def Obligations.SetpBoolKnobs : Prop :=
  ∀ (opd : BitVec 64) (s : State),
    decode 0x02000000#32 opd = .ok (.setpMasterEn opd) ∧ decode 0x02100000#32 opd = .ok (.setpCompEn opd) ∧
    decode 0x02200000#32 opd = .ok (.setpBassEn opd) ∧ decode 0x02300000#32 opd = .ok (.setpEqEn opd) ∧
    decode 0x02370000#32 opd = .ok (.setpEqLoudEn opd) ∧ decode 0x02400000#32 opd = .ok (.setpVirtEn opd) ∧
    (opd.toNat ≤ 1 →
      let v := decide (opd.toNat = 1)
      exec (.setpMasterEn opd) s = .next (reply { s with masterEn := v } 0x00#8 0#64 none) ∧
      exec (.setpCompEn opd) s = .next (reply { s with comp := { s.comp with en := v } } 0x00#8 0#64 none) ∧
      exec (.setpBassEn opd) s = .next (reply { s with bass := { s.bass with en := v } } 0x00#8 0#64 none) ∧
      exec (.setpEqEn opd) s = .next (reply { s with eq := { s.eq with en := v } } 0x00#8 0#64 none) ∧
      exec (.setpEqLoudEn opd) s = .next (reply { s with eq := { s.eq with loudEn := v } } 0x00#8 0#64 none) ∧
      exec (.setpVirtEn opd) s = .next (reply { s with virt := { s.virt with en := v } } 0x00#8 0#64 none)) ∧
    (1 < opd.toNat →
      exec (.setpMasterEn opd) s = .next (reply s 0x04#8 0#64 none) ∧
      exec (.setpCompEn opd) s = .next (reply s 0x04#8 0#64 none) ∧
      exec (.setpBassEn opd) s = .next (reply s 0x04#8 0#64 none) ∧
      exec (.setpEqEn opd) s = .next (reply s 0x04#8 0#64 none) ∧
      exec (.setpEqLoudEn opd) s = .next (reply s 0x04#8 0#64 none) ∧
      exec (.setpVirtEn opd) s = .next (reply s 0x04#8 0#64 none))

/-- R225: `COMP_RATIO` takes every real number from 1.0 to 11.0, both ends included, and nothing else. -/
def Obligations.SetpCompRatio : Prop :=
  ∀ (opd : BitVec 64) (s : State),
    decode 0x02110000#32 opd = .ok (.setpCompRatio opd) ∧
    (isFinite ⟨opd⟩ = true ∧ 1 ≤ toReal ⟨opd⟩ ∧ toReal ⟨opd⟩ ≤ 11 →
      exec (.setpCompRatio opd) s =
        .next (reply { s with comp := { s.comp with ratio := ⟨opd⟩ } } 0x00#8 0#64 none)) ∧
    (¬(isFinite ⟨opd⟩ = true ∧ 1 ≤ toReal ⟨opd⟩ ∧ toReal ⟨opd⟩ ≤ 11) →
      exec (.setpCompRatio opd) s = .next (reply s 0x04#8 0#64 none))

/-- R227, R161, R162: `BASS_STRENGTH` with `BASS_Q`, and the filter's new target once the block is configured. -/
def Obligations.SetpBassStrength : Prop :=
  ∀ (opd : BitVec 64) (s : State),
    decode 0x02210000#32 opd = .ok (.setpBassStrength opd) ∧
    (0 ≤ opd.toInt ∧ opd.toInt ≤ 1000 →
      let q := fadd ⟨0x3FE0000000000000#64⟩ (fdiv (i2d opd.toInt) ⟨0x4084D00000000000#64⟩)
      exec (.setpBassStrength opd) s =
        .next (reply { s with bass :=
          { s.bass with
            strength := opd
            q := q
            lp :=
              if s.configured then
                bqInstall (bqDesign cfg .lowpass s.bass.freq s.rate q posZero posZero) cfg.bassInterval s.bass.lp
              else s.bass.lp } } 0x00#8 0#64 none)) ∧
    (¬(0 ≤ opd.toInt ∧ opd.toInt ≤ 1000) → exec (.setpBassStrength opd) s = .next (reply s 0x04#8 0#64 none))

/-- R228, R162: `BASS_FREQ` takes every finite number above 0, and retunes the filter once the block is configured. -/
def Obligations.SetpBassFreq : Prop :=
  ∀ (opd : BitVec 64) (s : State),
    decode 0x02220000#32 opd = .ok (.setpBassFreq opd) ∧
    (isFinite ⟨opd⟩ = true ∧ 0 < toReal ⟨opd⟩ →
      exec (.setpBassFreq opd) s =
        .next (reply { s with bass :=
          { s.bass with
            freq := ⟨opd⟩
            lp :=
              if s.configured then
                bqInstall (bqDesign cfg .lowpass ⟨opd⟩ s.rate s.bass.q posZero posZero) cfg.bassInterval s.bass.lp
              else s.bass.lp } } 0x00#8 0#64 none)) ∧
    (¬(isFinite ⟨opd⟩ = true ∧ 0 < toReal ⟨opd⟩) → exec (.setpBassFreq opd) s = .next (reply s 0x04#8 0#64 none))

/-- R230 to R235: the six band gains, −1000 to 1000 hundredths of a dB; no filter moves (R180). -/
def Obligations.SetpEqBands : Prop :=
  ∀ (opd : BitVec 64) (s : State),
    decode 0x02310000#32 opd = .ok (.setpEqBand0 opd) ∧ decode 0x02320000#32 opd = .ok (.setpEqBand1 opd) ∧
    decode 0x02330000#32 opd = .ok (.setpEqBand2 opd) ∧ decode 0x02340000#32 opd = .ok (.setpEqBand3 opd) ∧
    decode 0x02350000#32 opd = .ok (.setpEqBand4 opd) ∧ decode 0x02360000#32 opd = .ok (.setpEqBand5 opd) ∧
    (-1000 ≤ opd.toInt ∧ opd.toInt ≤ 1000 →
      let withBand (b : Bands) : State := reply { s with eq := { s.eq with band := b } } 0x00#8 0#64 none
      exec (.setpEqBand0 opd) s = .next (withBand { s.eq.band with b0 := opd }) ∧
      exec (.setpEqBand1 opd) s = .next (withBand { s.eq.band with b1 := opd }) ∧
      exec (.setpEqBand2 opd) s = .next (withBand { s.eq.band with b2 := opd }) ∧
      exec (.setpEqBand3 opd) s = .next (withBand { s.eq.band with b3 := opd }) ∧
      exec (.setpEqBand4 opd) s = .next (withBand { s.eq.band with b4 := opd }) ∧
      exec (.setpEqBand5 opd) s = .next (withBand { s.eq.band with b5 := opd })) ∧
    (¬(-1000 ≤ opd.toInt ∧ opd.toInt ≤ 1000) →
      exec (.setpEqBand0 opd) s = .next (reply s 0x04#8 0#64 none) ∧
      exec (.setpEqBand1 opd) s = .next (reply s 0x04#8 0#64 none) ∧
      exec (.setpEqBand2 opd) s = .next (reply s 0x04#8 0#64 none) ∧
      exec (.setpEqBand3 opd) s = .next (reply s 0x04#8 0#64 none) ∧
      exec (.setpEqBand4 opd) s = .next (reply s 0x04#8 0#64 none) ∧
      exec (.setpEqBand5 opd) s = .next (reply s 0x04#8 0#64 none))

/-- R237, R85: `EQ_LOUD_REF` takes every finite word, and holds it bit for bit. -/
def Obligations.SetpEqLoudRef : Prop :=
  ∀ (opd : BitVec 64) (s : State),
    decode 0x02380000#32 opd = .ok (.setpEqLoudRef opd) ∧
    (isFinite ⟨opd⟩ = true →
      exec (.setpEqLoudRef opd) s = .next (reply { s with eq := { s.eq with loudRef := ⟨opd⟩ } } 0x00#8 0#64 none)) ∧
    (isNaN ⟨opd⟩ = true ∨ isInf ⟨opd⟩ = true → exec (.setpEqLoudRef opd) s = .next (reply s 0x04#8 0#64 none))

/-- R239, R191: `VIRT_STRENGTH` with the three registers it derives. -/
def Obligations.SetpVirtStrength : Prop :=
  ∀ (opd : BitVec 64) (s : State),
    decode 0x02410000#32 opd = .ok (.setpVirtStrength opd) ∧
    (0 ≤ opd.toInt ∧ opd.toInt ≤ 1000 →
      let db := fadd ⟨0xC02E000000000000#64⟩ (fmul ⟨0x4024000000000000#64⟩ (fdiv (i2d opd.toInt) ⟨0x408F400000000000#64⟩))
      exec (.setpVirtStrength opd) s =
        .next (reply { s with virt :=
          { s.virt with
            strength := opd
            deep := decide (opd.toInt ≠ 0)
            wide := decide (500 ≤ opd.toInt)
            level :=
              if opd.toInt = 0 then 0#64
              else satU 64 (d2i (fmul (fpow10 cfg (fdiv db ⟨0x4034000000000000#64⟩)) ⟨0x41F0000000000000#64⟩)) } }
          0x00#8 0#64 none)) ∧
    (¬(0 ≤ opd.toInt ∧ opd.toInt ≤ 1000) → exec (.setpVirtStrength opd) s = .next (reply s 0x04#8 0#64 none))

/-- R222: a SETP or a GETP changes no fade counter, no filter history, no delay cell, no gain, no estimate, neither the
rate nor the FIR16 unit. -/
def Obligations.SetpTouchesNoAudioState : Prop :=
  ∀ (i : Instr) (s t : State), IsSetp i ∨ IsGetp i → exec i s = .next t →
    t.comp.fade = s.comp.fade ∧ t.comp.cur = s.comp.cur ∧ t.comp.user = s.comp.user ∧ t.comp.bp = s.comp.bp ∧
    t.bass.lp.w1 = s.bass.lp.w1 ∧ t.bass.lp.w2 = s.bass.lp.w2 ∧
    t.eq.fade = s.eq.fade ∧ t.eq.interval = s.eq.interval ∧ t.eq.next = s.eq.next ∧ t.eq.loud = s.eq.loud ∧
    t.eq.pwr = s.eq.pwr ∧ t.eq.sh = s.eq.sh ∧
    (∀ k, memRead t.virt.dly.l.buf k = memRead s.virt.dly.l.buf k) ∧
    (∀ k, memRead t.virt.dly.r.buf k = memRead s.virt.dly.r.buf k) ∧
    t.virt.dly = s.virt.dly ∧ t.virt.last = s.virt.last ∧ t.virt.loc = s.virt.loc ∧
    t.configured = s.configured ∧ t.rate = s.rate ∧ t.enc = s.enc ∧ t.fir = s.fir ∧ t.inbox = s.inbox

/-- R258 (ii): SETPs of different knobs commute.  The rule excepts BASS_STRENGTH with BASS_FREQ where `BASS_INTERVAL > 0` and
`CONFIGURED = 1`, and asks there for the same target; in the model every register comes out the same there too, since both
orders leave the current set alone and the same number of calls. -/
def Obligations.SetpsOfDifferentKnobsCommute : Prop :=
  ∀ p ∈ knobPairs, ∀ q ∈ knobPairs, p.2 ≠ q.2 → ∀ (x y : BitVec 64) (s a b c d : State),
    exec (p.1 x) s = .next a → exec (q.1 y) a = .next b → exec (q.1 y) s = .next c → exec (p.1 x) c = .next d →
    b.registers = d.registers

/-! ### GETP -/

/-- R241 to R246: the GETPs of the chain, the compressor and the bass boost answer their knob, whatever the operand and
the state, and change nothing; with the examples of the rules. -/
def Obligations.GetpChainCompBass : Prop :=
  (∀ (opd : BitVec 64) (s : State),
    decode 0x03000000#32 opd = .ok .getpMasterEn ∧
    exec .getpMasterEn s = .next (reply s 0x00#8 (if s.masterEn then 1#64 else 0#64) none) ∧
    decode 0x03100000#32 opd = .ok .getpCompEn ∧
    exec .getpCompEn s = .next (reply s 0x00#8 (if s.comp.en then 1#64 else 0#64) none) ∧
    decode 0x03110000#32 opd = .ok .getpCompRatio ∧
    exec .getpCompRatio s = .next (reply s 0x00#8 s.comp.ratio.bits none) ∧
    decode 0x03200000#32 opd = .ok .getpBassEn ∧
    exec .getpBassEn s = .next (reply s 0x00#8 (if s.bass.en then 1#64 else 0#64) none) ∧
    decode 0x03210000#32 opd = .ok .getpBassStrength ∧
    exec .getpBassStrength s = .next (reply s 0x00#8 s.bass.strength none) ∧
    decode 0x03220000#32 opd = .ok .getpBassFreq ∧
    exec .getpBassFreq s = .next (reply s 0x00#8 s.bass.freq.bits none)) ∧
  exec .getpMasterEn State.reset = .next (reply State.reset 0x00#8 0x0000000000000000#64 none) ∧
  exec .getpCompRatio State.reset = .next (reply State.reset 0x00#8 0x3FF0000000000000#64 none) ∧
  exec .getpBassFreq State.reset = .next (reply State.reset 0x00#8 0x404B800000000000#64 none) ∧
  (∀ s : State, ∃ t, exec (.setpBassStrength 1000#64) s = .next t ∧
    exec .getpBassStrength t = .next (reply t 0x00#8 0x00000000000003E8#64 none)) ∧
  (∀ s : State, ∃ t, exec (.setpCompEn 0#64) s = .next t ∧ t.comp.fade = s.comp.fade ∧
    exec .getpCompEn t = .next (reply t 0x00#8 0#64 none))

/-- R247 to R257: the GETPs of the equalizer and the virtualizer, likewise. -/
def Obligations.GetpEqVirt : Prop :=
  (∀ (opd : BitVec 64) (s : State),
    decode 0x03300000#32 opd = .ok .getpEqEn ∧
    exec .getpEqEn s = .next (reply s 0x00#8 (if s.eq.en then 1#64 else 0#64) none) ∧
    decode 0x03310000#32 opd = .ok .getpEqBand0 ∧ exec .getpEqBand0 s = .next (reply s 0x00#8 s.eq.band.b0 none) ∧
    decode 0x03320000#32 opd = .ok .getpEqBand1 ∧ exec .getpEqBand1 s = .next (reply s 0x00#8 s.eq.band.b1 none) ∧
    decode 0x03330000#32 opd = .ok .getpEqBand2 ∧ exec .getpEqBand2 s = .next (reply s 0x00#8 s.eq.band.b2 none) ∧
    decode 0x03340000#32 opd = .ok .getpEqBand3 ∧ exec .getpEqBand3 s = .next (reply s 0x00#8 s.eq.band.b3 none) ∧
    decode 0x03350000#32 opd = .ok .getpEqBand4 ∧ exec .getpEqBand4 s = .next (reply s 0x00#8 s.eq.band.b4 none) ∧
    decode 0x03360000#32 opd = .ok .getpEqBand5 ∧ exec .getpEqBand5 s = .next (reply s 0x00#8 s.eq.band.b5 none) ∧
    decode 0x03370000#32 opd = .ok .getpEqLoudEn ∧
    exec .getpEqLoudEn s = .next (reply s 0x00#8 (if s.eq.loudEn then 1#64 else 0#64) none) ∧
    decode 0x03380000#32 opd = .ok .getpEqLoudRef ∧
    exec .getpEqLoudRef s = .next (reply s 0x00#8 s.eq.loudRef.bits none) ∧
    decode 0x03400000#32 opd = .ok .getpVirtEn ∧
    exec .getpVirtEn s = .next (reply s 0x00#8 (if s.virt.en then 1#64 else 0#64) none) ∧
    decode 0x03410000#32 opd = .ok .getpVirtStrength ∧
    exec .getpVirtStrength s = .next (reply s 0x00#8 s.virt.strength none)) ∧
  exec .getpEqLoudRef State.reset = .next (reply State.reset 0x00#8 0x0000000000000000#64 none) ∧
  (∀ s : State, ∃ t, exec (.setpEqBand0 0xFFFFFFFFFFFFFC18#64) s = .next t ∧
    exec .getpEqBand0 t = .next (reply t 0x00#8 0xFFFFFFFFFFFFFC18#64 none))

/-- R258 (i), R85: right after a SETP that answered OK, the knob's GETP answers exactly the operand. -/
def Obligations.ReadBack : Prop :=
  ∀ p ∈ knobPairs, ∀ (opd : BitVec 64) (s t : State) (r : Response),
    exec (p.1 opd) s = .next t → t.response = some r → r.status = 0x00#8 →
    exec p.2 t = .next (reply t 0x00#8 opd none)

/-- R258 (i), R205, R221: no command but a knob's own SETP changes what its GETP answers. -/
def Obligations.KnobsChangeOnlyBySetp : Prop :=
  ∀ p ∈ knobPairs, ∀ (i : Instr) (s t : State) (v : BitVec 64),
    (∀ opd, i ≠ p.1 opd) → exec i s = .next t → exec p.2 s = .next (reply s 0x00#8 v none) →
    exec p.2 t = .next (reply t 0x00#8 v none)

/-! ### CONFIGURE -/

/-- R221, R153, R162, R172, R178, R179, R192, R121: what a CONFIGURE whose checks pass writes, all of it, and nothing else,
with the numbers of those rules.  The capacity check is at the model's `DLY_MAX` (DESIGN CHOICE, log 8). -/
def Obligations.ConfigureCarriedOut : Prop :=
  ∀ (encsel : BitVec 8) (opd : BitVec 64) (s : State),
    let rate : F64 := ⟨opd⟩
    let samples (seconds : F64) : Int := d2i (fadd (fmul rate seconds) ⟨0x3FE0000000000000#64⟩)
    let delayA : F64 := ⟨0x3F9DB22D0E560419#64⟩
    let delayB : F64 := ⟨0x3F978D4FDF3B645A#64⟩
    isFinite rate = true → 0 < toReal rate → encsel.toNat ≤ 2 → samples delayA ≤ 65536 →
    let settled (k : Coeffs) : Biquad := { cur := k, tgt := k, rem := 0#32, w1 := posZero, w2 := posZero }
    let clear (b : Biquad) : Biquad := { b with w1 := posZero, w2 := posZero }
    let cleared (x : Shelves) : Shelves :=
      { k0 := clear x.k0, k1 := clear x.k1, k2 := clear x.k2, k3 := clear x.k3, k4 := clear x.k4 }
    let weighting := settled (bqDesign cfg .bandpass ⟨0x40A1300000000000#64⟩ rate cfg.compBpBw posZero posZero)
    let shelves := (eqRefresh cfg 0#32 rate s.eq).sh
    exec (.configure 2#8 encsel opd) s =
      .next (reply
        { s with
          configured := true
          rate := rate
          enc := encsel
          comp := { s.comp with bp := ⟨weighting, weighting⟩ }
          bass := { s.bass with lp := settled (bqDesign cfg .lowpass s.bass.freq rate s.bass.q posZero posZero) }
          virt :=
            { s.virt with
              dly := ⟨⟨satU 32 (samples delayA), 0#32, []⟩, ⟨satU 32 (samples delayB), 0#32, []⟩⟩
              last := ⟨posZero, posZero⟩
              loc := settled (bqDesign cfg .highshelf ⟨0x4089000000000000#64⟩ rate ⟨0x3FE70A3D70A3D70A#64⟩
                ⟨0xC026000000000000#64⟩ posZero) }
          eq :=
            { s.eq with
              interval := satU 32 (max 1 (d2i (fdiv rate ⟨0x4059000000000000#64⟩)))
              next := 0#32
              pwr := ⟨0#64, 0#64⟩
              sh := ⟨cleared shelves.l, cleared shelves.r⟩ } }
        0x00#8 0#64 none)

/-- R275: one code is returned, the first of its list, for an illegal word, for CONFIGURE and for PROCESS under any
configuration record; a SETP has one cause only; and the rule's example, with any input block: that a block
on a legal CONFIGURE is ignored is the model's choice (DESIGN CHOICE, log 24). -/
def Obligations.RefusalOrder : Prop :=
  (∀ (cmd : Command) (s : State) (e : DecodeError), decode cmd.cw cmd.opd = .error e →
    runCommand cmd s = .next (reply s 0x01#8 0#64 none)) ∧
  (∀ (c : Config) (ch encsel : BitVec 8) (opd : BitVec 64) (s : State),
    (ch.toNat ≠ 2 → configureWith c ch encsel opd s = .next (reply s 0x03#8 0#64 none)) ∧
    (ch.toNat = 2 → ¬(isFinite ⟨opd⟩ = true ∧ 0 < toReal ⟨opd⟩) →
      configureWith c ch encsel opd s = .next (reply s 0x02#8 0#64 none)) ∧
    (ch.toNat = 2 → isFinite ⟨opd⟩ = true → 0 < toReal ⟨opd⟩ → 2 < encsel.toNat →
      configureWith c ch encsel opd s = .next (reply s 0x04#8 0#64 none)) ∧
    (ch.toNat = 2 → isFinite ⟨opd⟩ = true → 0 < toReal ⟨opd⟩ → encsel.toNat ≤ 2 →
      ∀ m : Nat, c.dlyMax = some m → (m : Int) < delayLength ⟨opd⟩ virtDelayA →
        configureWith c ch encsel opd s = .next (reply s 0x02#8 0#64 none))) ∧
  (∀ (c : Config) (n : BitVec 64) (s : State),
    (s.configured = false → processWith c n s = .next (reply s 0x05#8 0#64 none)) ∧
    (s.configured = true → ∀ m : Nat, c.blockMax = some m → m < n.toNat →
      processWith c n s = .next (reply s 0x04#8 0#64 none))) ∧
  (∀ (ch encsel : BitVec 8) (opd n : BitVec 64) (s : State),
    exec (.configure ch encsel opd) s = configureWith cfg ch encsel opd s ∧ exec (.process n) s = processWith cfg n s) ∧
  (∀ (i : Instr) (s t : State) (r : Response), IsSetp i → exec i s = .next t → t.response = some r →
    r.status = 0x00#8 ∨ r.status = 0x04#8) ∧
  (∀ (s : State) (sin : List F64),
    runCommand ⟨0x01000703#32, 0xBFF0000000000000#64, sin⟩ s = .next (reply s 0x03#8 0#64 none))

/-- R221, R121, R179, R192: the numbers of the worked examples, at 48000, 44100 and 2000 Hz, from any state.  (That none
is refused for its delay capacity rests on the model's `DLY_MAX`, log 8.) -/
def Obligations.ConfigureAtCommonRates : Prop :=
  ∀ s : State,
    (∃ t, exec (.configure 2#8 0#8 0x40E7700000000000#64) s = .next t ∧ t.enc = 0#8 ∧ t.eq.interval = 480#32 ∧
      t.virt.dly.l.len = 1392#32 ∧ t.virt.dly.r.len = 1104#32 ∧ t.eq.next = 0#32) ∧
    (∃ t, exec (.configure 2#8 1#8 0x40E5888000000000#64) s = .next t ∧ t.enc = 1#8 ∧ t.eq.interval = 441#32 ∧
      t.virt.dly.l.len = 1279#32 ∧ t.virt.dly.r.len = 1014#32 ∧ t.eq.next = 0#32) ∧
    (∃ t, exec (.configure 2#8 2#8 0x409F400000000000#64) s = .next t ∧ t.enc = 2#8 ∧ t.eq.interval = 20#32 ∧
      t.virt.dly.l.len = 58#32 ∧ t.virt.dly.r.len = 46#32 ∧ t.eq.next = 0#32)

/-- R258 (iv): two CONFIGUREs in a row with the same operands leave the same state as one.  (That equal designs have equal
NaN bits is the model's choice, log 6.) -/
def Obligations.ConfigureTwiceIsOnce : Prop :=
  ∀ (ch encsel : BitVec 8) (opd : BitVec 64) (s t : State),
    exec (.configure ch encsel opd) s = .next t → exec (.configure ch encsel opd) t = .next t

/-! ### Errors and responses -/

/-- R274, R258 (iii): a command that answers a status other than OK has answered `RES = 0` and no output block, and has
changed no register and no delay cell. -/
def Obligations.ErrorChangesNothing : Prop :=
  (∀ (cmd : Command) (s t : State) (r : Response), runCommand cmd s = .next t → t.response = some r →
    r.status ≠ 0x00#8 → t = reply s r.status 0#64 none) ∧
  (∀ (i : Instr) (s t : State) (r : Response), exec i s = .next t → t.response = some r → r.status ≠ 0x00#8 →
    t = reply s r.status 0#64 none)

/-- R88, R270: what a response can hold. -/
def Obligations.ResponseShape : Prop :=
  ∀ (i : Instr) (s t : State), exec i s = .next t →
    ∃ r, t.response = some r ∧ t.sin = [] ∧ r.status.toNat ≤ 5 ∧ r.status ≠ 0x01#8 ∧
      (r.status ≠ 0x00#8 → r.res = 0#64 ∧ r.sout = none) ∧
      (IsGetp i → r.status = 0x00#8) ∧
      (IsSetp i → r.res = 0#64) ∧
      (∀ ch encsel opd, i = .configure ch encsel opd → r.res = 0#64) ∧
      (∀ n, i = .process n → r.res = 0#64 ∨ r.res = 1#64) ∧
      (r.sout ≠ none ↔ (∃ n, i = .process n) ∧ r.status = 0x00#8)

/-! ### PROCESS -/

/-- R205, R210, R87: a PROCESS of a configured block with `2n` input words is carried out, and answers OK, `ACTIVE` of
the registers after the block, and `2n` output words; the block's registers are those the frames leave, run one after
the other through the gates sampled at the start.  (No `BLOCK_MAX`: the model's choice, log 8.) -/
def Obligations.ProcessCompletes : Prop :=
  ∀ (n : BitVec 64) (s : State), s.configured = true → s.sin.length = 2 * n.toNat →
    (s.virt.en = true → dlInBounds s.virt.dly.l = true ∧ dlInBounds s.virt.dly.r = true) →
    (s.eq.en = true → 1 ≤ s.eq.interval.toNat) →
    ∃ (t : State) (out : List F64), exec (.process n) s = .next t ∧ out.length = 2 * n.toNat ∧
      t = reply (runBlock cfg n.toNat s).1 0x00#8
        (if ((t.comp.en || decide (t.comp.fade ≠ 0#8)) || t.bass.en || t.virt.en || t.eq.en) && t.masterEn
          then 1#64 else 0#64) (some out) ∧
      out = (runBlock cfg n.toNat s).2

/-- R87: an input block that does not hold exactly `2n` words breaks the host's contract; the spec gives no behaviour,
and the model stops by name (the model's choice, log 12). -/
def Obligations.ProcessStopsOnWrongBlock : Prop :=
  ∀ (n : BitVec 64) (s : State), s.configured = true → s.sin.length ≠ 2 * n.toNat →
    exec (.process n) s = .fault .blockLength

/-- R205, R206: one frame goes through the running stages in the fixed order, the compressor's block step first.  (No
`BLOCK_MAX`: the model's choice, log 8.) -/
def Obligations.ProcessOneFrame : Prop :=
  ∀ (s : State) (l r : F64), s.configured = true → s.sin = [l, r] →
    (s.virt.en = true → dlInBounds s.virt.dly.l = true ∧ dlInBounds s.virt.dly.r = true) →
    (s.eq.en = true → 1 ≤ s.eq.interval.toNat) →
    let block := compBlock cfg s.rate 1 [l, r] s.comp
    let k := if s.comp.en || decide (s.comp.fade ≠ 0#8) then compFrame block.2 block.1 l r else (s.comp, l, r)
    let b := if s.bass.en then bassFrame s.bass k.2.1 k.2.2 else (s.bass, k.2.1, k.2.2)
    let v := if s.virt.en then virtFrame cfg s.virt b.2.1 b.2.2 else (s.virt, b.2.1, b.2.2)
    let e := if s.eq.en then eqFrame cfg s.rate s.eq v.2.1 v.2.2 else (s.eq, v.2.1, v.2.2)
    ∃ active : BitVec 64, exec (.process 1#64) s =
      .next (reply { s with comp := k.1, bass := b.1, virt := v.1, eq := e.1 } 0x00#8 active (some [e.2.1, e.2.2]))

/-- R211 (i): with all stages off PROCESS copies its input bit for bit and changes no state.  (No `BLOCK_MAX`: the model's
choice, log 8.) -/
def Obligations.ProcessStagesOffCopies : Prop :=
  ∀ (n : BitVec 64) (s : State), s.configured = true → s.sin.length = 2 * n.toNat →
    s.comp.en = false → s.bass.en = false → s.virt.en = false → s.eq.en = false → s.comp.fade = 0#8 →
    exec (.process n) s = .next (reply s 0x00#8 0#64 (some s.sin))

/-- R205, R141, R164, R182, R196: PROCESS writes no knob and no global register, and leaves a stage that does not run
as it was. -/
def Obligations.ProcessWritesOnlyRunningStages : Prop :=
  ∀ (n : BitVec 64) (s t : State), exec (.process n) s = .next t →
    t.configured = s.configured ∧ t.rate = s.rate ∧ t.enc = s.enc ∧ t.masterEn = s.masterEn ∧ t.fir = s.fir ∧
    t.inbox = s.inbox ∧
    t.comp = { s.comp with fade := t.comp.fade, cur := t.comp.cur, bp := t.comp.bp } ∧
    t.bass = { s.bass with lp := t.bass.lp } ∧
    t.eq = { s.eq with fade := t.eq.fade, next := t.eq.next, loud := t.eq.loud, pwr := t.eq.pwr, sh := t.eq.sh } ∧
    t.virt = { s.virt with last := t.virt.last, dly := t.virt.dly, loc := t.virt.loc } ∧
    (s.comp.en = false → s.comp.fade = 0#8 → t.comp = s.comp) ∧ (s.bass.en = false → t.bass = s.bass) ∧
    (s.virt.en = false → t.virt = s.virt) ∧ (s.eq.en = false → t.eq = s.eq)

/-- R207: with the compressor off, a stream cut into two blocks gives the same output and the same registers as one.  (No
`BLOCK_MAX`, and equal NaN bits for equal operations: the model's choices, log 8 and log 6.) -/
def Obligations.ProcessSplits : Prop :=
  ∀ (a b : BitVec 64) (x y : List F64) (s : State), StateOk s → s.configured = true →
    s.comp.en = false → s.comp.fade = 0#8 → x.length = 2 * a.toNat → y.length = 2 * b.toNat →
    a.toNat + b.toNat < 2 ^ 64 →
    ∃ (t u v : State) (p q : List F64) (first second : BitVec 64),
      exec (.process a) { s with sin := x } = .next t ∧ t.response = some ⟨0x00#8, first, some p⟩ ∧
      exec (.process b) { t with sin := y } = .next u ∧ u.response = some ⟨0x00#8, second, some q⟩ ∧
      exec (.process (a + b)) { s with sin := x ++ y } = .next v ∧ v.response = some ⟨0x00#8, second, some (p ++ q)⟩ ∧
      u.registers = v.registers

/-- R210: `ACTIVE = 0` with `MASTER_EN = 1` proves that the bass, virtualizer and equalizer stages were skipped, and
that the compressor either did not run, with `SOUT = SIN`, or ended its fade in this block. -/
def Obligations.ActiveZeroMeansSkipped : Prop :=
  ∀ (n : BitVec 64) (s t : State) (r : Response), exec (.process n) s = .next t → t.response = some r →
    r.status = 0x00#8 → r.res = 0#64 → s.masterEn = true →
    s.bass.en = false ∧ s.virt.en = false ∧ s.eq.en = false ∧ s.comp.en = false ∧ t.comp.fade = 0#8 ∧
    (s.comp.fade = 0#8 → r.sout = some s.sin)

/-! ### Biquads -/

/-- R112 (i): the identity set passes every finite input with a finite history, up to the sign of a zero. -/
def Obligations.IdentitySetPasses : Prop :=
  ∀ (b : Biquad) (x : F64), b.cur = Coeffs.identity → isFinite b.w1 = true → isFinite b.w2 = true → isFinite x = true →
    (isZero x = false → (bqProcess b x).2 = x ∧ (bqProcess b x).1.w1 = x) ∧
    (isZero x = true → isZero (bqProcess b x).2 = true ∧ isZero (bqProcess b x).1.w1 = true)

/-- R110, R111: a call in full: the recursion with the coefficients before the step, the history moved, and the step: nothing
with no call left, the target with one, and with more of them each coefficient `k` at `cur.k + (tgt.k − cur.k) ÷ i2d(rem)`.
R24, R112 (iv) and (v): (i) with no call left the current set is the target, after reset and after every operation; (ii) the
count right after a configure is its interval; (iii) a call takes one off it while it is positive, the target stands, and
from the `n`-th call on the current set is the target bit for bit. -/
def Obligations.RampEndsAtTarget : Prop :=
  (∀ (b : Biquad) (x : F64),
    let w := fsub (fsub x (fmul b.cur.b1 b.w1)) (fmul b.cur.b2 b.w2)
    let y := fadd (fadd (fmul b.cur.a0 w) (fmul b.cur.a1 b.w1)) (fmul b.cur.a2 b.w2)
    let r := i2d b.rem.toNat
    (bqProcess b x).2 = y ∧ (bqProcess b x).1.w1 = w ∧ (bqProcess b x).1.w2 = b.w1 ∧
    (bqProcess b x).1.tgt = b.tgt ∧ (bqProcess b x).1.rem.toNat = b.rem.toNat - 1 ∧
    (b.rem.toNat = 0 → (bqProcess b x).1.cur = b.cur) ∧ (b.rem.toNat = 1 → (bqProcess b x).1.cur = b.tgt) ∧
    (2 ≤ b.rem.toNat → (bqProcess b x).1.cur =
      { a0 := fadd b.cur.a0 (fdiv (fsub b.tgt.a0 b.cur.a0) r)
        a1 := fadd b.cur.a1 (fdiv (fsub b.tgt.a1 b.cur.a1) r)
        a2 := fadd b.cur.a2 (fdiv (fsub b.tgt.a2 b.cur.a2) r)
        b1 := fadd b.cur.b1 (fdiv (fsub b.tgt.b1 b.cur.b1) r)
        b2 := fadd b.cur.b2 (fdiv (fsub b.tgt.b2 b.cur.b2) r) })) ∧
  BiquadSettled Biquad.reset ∧
  (∀ (c : Config) (kind : BqKind) (n : BitVec 32) (f rate p dBGain overallDb : F64) (b : Biquad),
    BiquadSettled (bqConfigure c kind n f rate p dBGain overallDb b) ∧
    (bqConfigure c kind n f rate p dBGain overallDb b).rem = n) ∧
  (∀ (b : Biquad) (x : F64), BiquadSettled b →
    BiquadSettled (bqProcess b x).1 ∧ BiquadSettled (bqStep b) ∧ BiquadSettled (bqClear b)) ∧
  (∀ b : Biquad, (bqClear b).rem = b.rem) ∧
  (∀ (new : Coeffs) (n : BitVec 32) (b : Biquad) (xs : List F64),
    let after := xs.foldl (fun k x => (bqProcess k x).1) (bqInstall new n b)
    after.tgt = new ∧ after.rem.toNat = n.toNat - xs.length ∧ (n.toNat ≤ xs.length → after.cur = new))

/-- R108, R109: interval 0 snaps, any other leaves the current set, from which the ramp starts, whatever count was left; the
history is never touched; with the rule's example.  The next call's step (R111) then takes each coefficient the `n`-th part
of the way from the current set to the new one, and the last one there. -/
def Obligations.InstallStartsFromCurrent : Prop :=
  (∀ (new : Coeffs) (b : Biquad), bqInstall new 0#32 b = { b with tgt := new, cur := new, rem := 0#32 }) ∧
  (∀ (new : Coeffs) (n : BitVec 32) (b : Biquad), n ≠ 0#32 → bqInstall new n b = { b with tgt := new, rem := n }) ∧
  (∀ (b : Biquad) (new : Coeffs), b.cur.a0 = ⟨0x3FF0000000000000#64⟩ → new.a0 = ⟨0x4000000000000000#64⟩ →
    (bqInstall new 4#32 b).tgt.a0 = ⟨0x4000000000000000#64⟩ ∧
    (bqInstall new 4#32 b).cur.a0 = ⟨0x3FF0000000000000#64⟩ ∧ (bqInstall new 4#32 b).rem = 4#32) ∧
  (∀ (new : Coeffs) (n : BitVec 32) (b : Biquad) (x : F64), n ≠ 0#32 →
    let toward (old new : F64) : F64 := fadd old (fdiv (fsub new old) (i2d n.toNat))
    (bqProcess (bqInstall new n b) x).1.cur =
      if n = 1#32 then new
      else
        { a0 := toward b.cur.a0 new.a0, a1 := toward b.cur.a1 new.a1, a2 := toward b.cur.a2 new.a2,
          b1 := toward b.cur.b1 new.b1, b2 := toward b.cur.b2 new.b2 })

/-- R112 (iii), for an instance with no ramp under way: a run of zeros through a zero history gives zeros and leaves the
history zero.  (With a ramp the rule fails where `tgt − cur` overflows, log 22.) -/
def Obligations.ZeroStaysZero : Prop :=
  ∀ (b : Biquad) (xs : List F64), b.rem = 0#32 → FiniteSet b.cur → isZero b.w1 = true → isZero b.w2 = true →
    (∀ x ∈ xs, isZero x = true) →
    let after := xs.foldl (fun k x => (bqProcess k x).1) b
    isZero after.w1 = true ∧ isZero after.w2 = true ∧ after.cur = b.cur ∧
    ∀ x, isZero x = true → isZero (bqProcess after x).2 = true

/-- R104, R105, R106, R107: with the equations of those rules as `BQ_DESIGN` (a premise: its default, log 7), the set a design
computes, of each kind, the high shelf in both shelf modes.  R106 (corner case), in both shelf modes: a shelf of gain 0 dB has
its numerator equal to its denominator, bit for bit, and a normalised set (1.0, b1, b2, b1, b2).  (The rule needs a cosine
that is not zero, log 22.)  R105 (corner case), R114: where the sine is zero the band-pass has a NaN `alpha`, and
every coefficient of its set is a NaN (`fsinh` of an infinity or a NaN is not finite, log 5). -/
def Obligations.FlatShelfIsUnity : Prop :=
  (∀ (c : Config) (f rate p dBGain overallDb : F64), c.bqDesign = .cookbook →
    let one : F64 := ⟨0x3FF0000000000000#64⟩
    let two : F64 := ⟨0x4000000000000000#64⟩
    let minusTwo : F64 := ⟨0xC000000000000000#64⟩
    let w0 := fdiv (fmul (fmul two ⟨0x400921FB54442D18#64⟩) f) rate
    let sn := fsin c w0
    let cs := fcos c w0
    (let alpha := fdiv sn (fmul two p)
     let n0 := fdiv (fsub one cs) two
     let d0 := fadd one alpha
     bqDesign c .lowpass f rate p dBGain overallDb =
      { a0 := fdiv n0 d0, a1 := fdiv (fsub one cs) d0, a2 := fdiv n0 d0,
        b1 := fdiv (fmul minusTwo cs) d0, b2 := fdiv (fsub one alpha) d0 }) ∧
    (let alpha := fmul sn (fsinh c (fdiv (fmul (fmul (fdiv ⟨0x3FE62E42FEFA39EF#64⟩ two) p) w0) sn))
     let d0 := fadd one alpha
     bqDesign c .bandpass f rate p dBGain overallDb =
      { a0 := fdiv alpha d0, a1 := fdiv posZero d0, a2 := fdiv (fneg alpha) d0,
        b1 := fdiv (fmul minusTwo cs) d0, b2 := fdiv (fsub one alpha) d0 }) ∧
    (let a := fpow10 c (fdiv dBGain ⟨0x4044000000000000#64⟩)
     let alpha :=
      if c.shelfParamMode = .slope then
        fmul (fdiv sn two) (fsqrt (fadd (fmul (fadd a (fdiv one a)) (fsub (fdiv one p) one)) two))
      else fdiv sn (fmul two p)
     let t := fmul (fmul two (fsqrt a)) alpha
     let up := fadd a one
     let down := fsub a one
     let g := fpow10 c (fdiv overallDb ⟨0x4034000000000000#64⟩)
     let d0 := fadd (fsub up (fmul down cs)) t
     bqDesign c .highshelf f rate p dBGain overallDb =
      { a0 := fdiv (fmul (fmul a (fadd (fadd up (fmul down cs)) t)) g) d0
        a1 := fdiv (fmul (fmul (fmul minusTwo a) (fadd down (fmul up cs))) g) d0
        a2 := fdiv (fmul (fmul a (fsub (fadd up (fmul down cs)) t)) g) d0
        b1 := fdiv (fmul two (fsub down (fmul up cs))) d0
        b2 := fdiv (fsub (fsub up (fmul down cs)) t) d0 })) ∧
  (∀ (c : Config) (f rate p : F64),
    let t := designHighshelf c f rate p posZero posZero
    isZero (fcos c (designW0 f rate)) = false →
    isFinite t.d0 = true → isFinite t.d1 = true → isFinite t.d2 = true → isZero t.d0 = false →
    t.n0 = t.d0 ∧ t.n1 = t.d1 ∧ t.n2 = t.d2 ∧
    normalise t = ⟨fone, (normalise t).b1, (normalise t).b2, (normalise t).b1, (normalise t).b2⟩) ∧
  (∀ (c : Config) (f rate bw dBGain overallDb : F64), c.bqDesign = .cookbook →
    let w0 := fdiv (fmul (fmul ⟨0x4000000000000000#64⟩ ⟨0x400921FB54442D18#64⟩) f) rate
    let sn := fsin c w0
    let half := fdiv ⟨0x3FE62E42FEFA39EF#64⟩ ⟨0x4000000000000000#64⟩
    isZero sn = true →
    isNaN (fmul sn (fsinh c (fdiv (fmul (fmul half bw) w0) sn))) = true ∧
    (let k := bqDesign c .bandpass f rate bw dBGain overallDb
     isNaN k.a0 = true ∧ isNaN k.a1 = true ∧ isNaN k.a2 = true ∧ isNaN k.b1 = true ∧ isNaN k.b2 = true))

/-! ### Delay lines -/

/-- R124, R120, R123: (i) the cursor bound after reset, after a configure and after every call; (ii) after a configure,
call `k` returns +0.0 for `k < LEN` and the input of call `k − LEN` bit for bit from then on, for any length, 0 included,
so that (iv) no value is ever changed; (iii) an impulse comes out at call `LEN` and nowhere else. -/
def Obligations.DelayLaw : Prop :=
  (let bounded (d : DelayLine) : Prop := d.cur.toNat < max d.len.toNat 1
   bounded DelayLine.reset ∧ (∀ rate seconds d, bounded (dlConfigure rate seconds d)) ∧
   ∀ d x, bounded d → bounded (dlProcess d x).1) ∧
  (∀ (rate seconds : F64) (d : DelayLine) (xs : List F64) (x : F64),
    let line := xs.foldl (fun l y => (dlProcess l y).1) (dlConfigure rate seconds d)
    line.len = (dlConfigure rate seconds d).len ∧
    (dlProcess line x).2 =
      if xs.length < line.len.toNat then posZero else ((xs ++ [x])[xs.length - line.len.toNat]?).getD posZero) ∧
  (∀ (rate seconds : F64) (d : DelayLine) (k : Nat),
    let input (j : Nat) : F64 := if j = 0 then fone else posZero
    let start := dlConfigure rate seconds d
    let line := (List.range k).foldl (fun l j => (dlProcess l (input j)).1) start
    (dlProcess line (input k)).2 = if k = start.len.toNat then fone else posZero)

/-- R63, R122, R123: one call reads the word at the cursor, writes the input there and no other cell, and moves the
cursor back with wrap; a line of length 0 passes its input and stores nothing. -/
def Obligations.DelayCallFrame : Prop :=
  ∀ (d : DelayLine) (x : F64), memWf d.buf = true →
    (d.len = 0#32 → dlProcess d x = (d, x)) ∧
    (d.len ≠ 0#32 →
      (dlProcess d x).2 = memRead d.buf d.cur.toNat ∧
      (∀ k, memRead (dlProcess d x).1.buf k = if k = d.cur.toNat then x else memRead d.buf k) ∧
      (dlProcess d x).1.len = d.len ∧
      (dlProcess d x).1.cur.toNat = (if d.cur.toNat = 0 then d.len.toNat - 1 else d.cur.toNat - 1) ∧
      memWf (dlProcess d x).1.buf = true)

/-- R122, R205: a PROCESS of `n` frames through the virtualizer writes the `n` cells from each cursor backward, with
wrap, and no other cell of a delay RAM. -/
def Obligations.ProcessDelayFrame : Prop :=
  ∀ (n : BitVec 64) (s t : State) (r : Response), StateOk s → exec (.process n) s = .next t → t.response = some r →
    r.status = 0x00#8 → s.virt.en = true →
    (t.virt.dly.l.len = s.virt.dly.l.len ∧
      t.virt.dly.l.cur.toNat =
        (s.virt.dly.l.cur.toNat + n.toNat * (s.virt.dly.l.len.toNat - 1)) % s.virt.dly.l.len.toNat ∧
      ∀ k, (∀ i, i < n.toNat →
          k ≠ (s.virt.dly.l.cur.toNat + i * (s.virt.dly.l.len.toNat - 1)) % s.virt.dly.l.len.toNat) →
        memRead t.virt.dly.l.buf k = memRead s.virt.dly.l.buf k) ∧
    (t.virt.dly.r.len = s.virt.dly.r.len ∧
      t.virt.dly.r.cur.toNat =
        (s.virt.dly.r.cur.toNat + n.toNat * (s.virt.dly.r.len.toNat - 1)) % s.virt.dly.r.len.toNat ∧
      ∀ k, (∀ i, i < n.toNat →
          k ≠ (s.virt.dly.r.cur.toNat + i * (s.virt.dly.r.len.toNat - 1)) % s.virt.dly.r.len.toNat) →
        memRead t.virt.dly.r.buf k = memRead s.virt.dly.r.buf k)

/-! ### FIR16 -/

/-- R132, R133 (i) and (ii): a call shifts its input into the history and answers the sum of products, added in ascending
order; the impulse response is the sixteen coefficients and then zeros, up to the sign of a zero; the output depends on
the last sixteen inputs only. -/
def Obligations.FirForgetsAfterSixteen : Prop :=
  (∀ (u : Fir16) (x : F64),
    let c (k : Nat) : F64 := (u.c.toList[k]?).getD posZero
    let h (k : Nat) : F64 := if k = 0 then x else (u.h.toList[k - 1]?).getD posZero
    (firProcess u x).2 = (List.range 15).foldl (fun acc k => fadd acc (fmul (c (k + 1)) (h (k + 1)))) (fmul (c 0) (h 0)) ∧
    (firProcess u x).1.c = u.c ∧ ∀ k, k < 16 → (firProcess u x).1.h.toList[k]? = some (h k)) ∧
  (∀ (u : Fir16) (j : Nat), u.h = Vector.replicate 16 posZero → (∀ a ∈ u.c.toList, isFinite a = true) →
    let input (i : Nat) : F64 := if i = 0 then fone else posZero
    let y := (firProcess ((List.range j).foldl (fun k i => (firProcess k (input i)).1) u) (input j)).2
    (∀ a, u.c.toList[j]? = some a → (isZero a = false → y = a) ∧ (isZero a = true → isZero y = true)) ∧
    (16 ≤ j → isZero y = true)) ∧
  (∀ (u v : Fir16) (xs : List F64) (x : F64), u.c = v.c → 15 ≤ xs.length →
    (firProcess (xs.foldl (fun k y => (firProcess k y).1) u) x).2 =
      (firProcess (xs.foldl (fun k y => (firProcess k y).1) v) x).2)

/-- R131, R133 (iii), R32: a load writes the coefficients and not the history; no command reads or writes the unit, and
none writes `COMP_USER`. -/
def Obligations.FirAndUserGainUntouched : Prop :=
  (∀ (c : Vector F64 16) (u : Fir16), (firLoad c u).c = c ∧ (firLoad c u).h = u.h) ∧
  (∀ (i : Instr) (s t : State), exec i s = .next t → t.fir = s.fir ∧ t.comp.user = s.comp.user) ∧
  (∀ (i : Instr) (s t : State) (u : Fir16), exec i s = .next t →
    exec i { s with fir := u } = .next { t with fir := u })

/-! ### Compressor -/

/-- R143, R141: a PROCESS carried out moves the fade one step toward 100 when the compressor is enabled and one step
toward 0 when it is not, whatever the number of frames. -/
def Obligations.CompressorFadeStep : Prop :=
  ∀ (n : BitVec 64) (s t : State) (r : Response), exec (.process n) s = .next t → t.response = some r →
    r.status = 0x00#8 →
    t.comp.fade.toNat =
      if s.comp.en then (if s.comp.fade.toNat < 100 then s.comp.fade.toNat + 1 else s.comp.fade.toNat)
      else s.comp.fade.toNat - 1

/-- R149, R150, R154 (i): `n` steps of the increment never carry a gain past the wanted one, and an increase covers at
most a sixteenth of the way. -/
def Obligations.SlewNeverOvershoots : Prop :=
  ∀ (user cur : BitVec 64) (factor : Int) (rate : F64) (n : Nat),
    let want := wantedGain user factor
    let a := slew user cur factor rate n
    (n : Int) * |a| ≤ |want - cur.toInt| ∧
    (want ≤ cur.toInt → a ≤ 0 ∧ want ≤ cur.toInt + n * a) ∧
    (cur.toInt ≤ want → 0 ≤ a ∧ 16 * (n * a) ≤ want - cur.toInt)

/-- R141 to R151 with their numbers, for the compressor running alone: the two input channels through the weighting filters,
their squares added (R142) and averaged, the louder channel's power (R144) as a level in dB (R145), the fade one step up
(R143), the correction (R146) softened by `COMP_SOFTEN` (R147; free, log 7) as a factor (R148), and the increment of each gain
toward the wanted one (R149, R150).  Frame `i` is then scaled by the block's starting gain plus `i` increments, and the gain
after the block is the starting gain plus `n` of them (R151).  (No `BLOCK_MAX`: the model's choice, log 8.) -/
def Obligations.CompressorGainRamp : Prop :=
  ∀ (n : BitVec 64) (s : State), StateOk s → s.configured = true → s.sin.length = 2 * n.toNat →
    s.comp.en = true → s.bass.en = false → s.virt.en = false → s.eq.en = false →
    let word (j : Nat) : F64 := (s.sin[j]?).getD posZero
    let addSquared (acc : BitVec 64) (v : F64) : BitVec 64 :=
      BitVec.ofNat 64 (min (acc.toNat + (d2i v).natAbs ^ 2) (2 ^ 64 - 1))
    let metered (channel : Nat) (bp : Biquad) : Biquad × BitVec 64 :=
      (List.range n.toNat).foldl
        (fun a i =>
          let p := bqProcess a.1 (word (2 * i + channel))
          (p.1, addSquared a.2 p.2))
        (bp, 0#64)
    let left := metered 0 s.comp.bp.l
    let right := metered 1 s.comp.bp.r
    let power : Nat := max (left.2.toNat / max n.toNat 1) (right.2.toNat / max n.toNat 1)
    let level := fadd (fmul ⟨0x4024000000000000#64⟩
      (flog10 cfg (fadd (fdiv (i2d power) ⟨0x42F0000000000000#64⟩) cfg.compEps))) ⟨0x402A000000000000#64⟩
    let fade : Nat := if s.comp.fade.toNat < 100 then s.comp.fade.toNat + 1 else s.comp.fade.toNat
    let correction := cfg.compSoften
      (fmul (fsub (fdiv level s.comp.ratio) level) (fdiv (i2d fade) ⟨0x4059000000000000#64⟩))
    let factor := d2i (fmul ⟨0x4170000000000000#64⟩ (fpow10 cfg (fdiv correction ⟨0x4034000000000000#64⟩)))
    let increment (user cur : BitVec 64) : Int :=
      let want := user.toInt * factor / 2 ^ 24
      let a := (want - cur.toInt).tdiv (max (max 1 (d2i (fdiv s.rate ⟨0x4048000000000000#64⟩))) n.toNat)
      if 0 < a then a / 2 ^ 4 else a
    let al := increment s.comp.user.l s.comp.cur.l
    let ar := increment s.comp.user.r s.comp.cur.r
    ∃ (t : State) (active : BitVec 64) (out : List F64), exec (.process n) s = .next t ∧
      t = reply { s with comp := t.comp } 0x00#8 active (some out) ∧ out.length = 2 * n.toNat ∧
      t.comp = { s.comp with fade := t.comp.fade, cur := t.comp.cur, bp := ⟨left.1, right.1⟩ } ∧
      t.comp.fade.toNat = fade ∧
      t.comp.cur.l.toInt = s.comp.cur.l.toInt + n.toNat * al ∧
      t.comp.cur.r.toInt = s.comp.cur.r.toInt + n.toNat * ar ∧
      ∀ i, i < n.toNat →
        out[2 * i]? = some (fdiv (fmul (word (2 * i)) (i2d (s.comp.cur.l.toInt + i * al))) ⟨0x4170000000000000#64⟩) ∧
        out[2 * i + 1]? =
          some (fdiv (fmul (word (2 * i + 1)) (i2d (s.comp.cur.r.toInt + i * ar))) ⟨0x4170000000000000#64⟩)

/-- R145, R146, R148: the level of a power, and the factor of a ratio, a fade and a power, with their numbers, under any
`COMP_SOFTEN`.  R154 (iii), for the softening of R147, written out (its default, a premise): ratio 1.0 gives the factor unity
at every fade, the increment 0 from unity, and unity is the identity on every sample below 2^1000 in magnitude, those for
which x × 2^24 does not overflow (log 22). -/
def Obligations.RatioOneIsTransparent : Prop :=
  (∀ (c : Config) (ratio : F64) (fade : BitVec 8) (p : Nat),
    let level := fadd (fmul ⟨0x4024000000000000#64⟩
      (flog10 c (fadd (fdiv (i2d p) ⟨0x42F0000000000000#64⟩) c.compEps))) ⟨0x402A000000000000#64⟩
    let correction := c.compSoften
      (fmul (fsub (fdiv level ratio) level) (fdiv (i2d fade.toNat) ⟨0x4059000000000000#64⟩))
    levelDb c p = level ∧
    blockFactor c ratio fade p =
      d2i (fmul ⟨0x4170000000000000#64⟩ (fpow10 c (fdiv correction ⟨0x4034000000000000#64⟩)))) ∧
  (∀ (c : Config) (fade : BitVec 8) (p : Nat),
    (∀ x : F64, c.compSoften x =
      fsub x (fmul (fmul (fdiv x ⟨0x4059000000000000#64⟩) (fdiv x ⟨0x4059000000000000#64⟩)) ⟨0x4049000000000000#64⟩)) →
    isFinite (levelDb c p) = true → blockFactor c ⟨0x3FF0000000000000#64⟩ fade p = 2 ^ 24) ∧
  (∀ (rate : F64) (n : Nat), slew 0x1000000#64 0x1000000#64 (2 ^ 24) rate n = 0) ∧
  (∀ x : F64, |toReal x| < 2 ^ 1000 → isFinite x = true → applyGain 0x1000000#64 x = x)

/-! ### Bass boost -/

/-- R163, R164: with the bass boost alone running, each frame's filter output for the sum of the channels is added to
both, the filter carried from frame to frame.  (No `BLOCK_MAX`: the model's choice, log 8.) -/
def Obligations.BassAddsOneBoostToBoth : Prop :=
  ∀ (n : BitVec 64) (s : State), s.configured = true → s.sin.length = 2 * n.toNat →
    s.comp.en = false → s.comp.fade = 0#8 → s.bass.en = true → s.virt.en = false → s.eq.en = false →
    let word (j : Nat) : F64 := (s.sin[j]?).getD posZero
    let sum (i : Nat) : F64 := fadd (word (2 * i)) (word (2 * i + 1))
    let filter (i : Nat) : Biquad := (List.range i).foldl (fun b k => (bqProcess b (sum k)).1) s.bass.lp
    ∃ (t : State) (active : BitVec 64) (out : List F64), exec (.process n) s = .next t ∧
      t = reply { s with bass := { s.bass with lp := filter n.toNat } } 0x00#8 active (some out) ∧
      out.length = 2 * n.toNat ∧
      ∀ i, i < n.toNat →
        out[2 * i]? = some (fadd (word (2 * i)) (bqProcess (filter i) (sum i)).2) ∧
        out[2 * i + 1]? = some (fadd (word (2 * i + 1)) (bqProcess (filter i) (sum i)).2)

/-! ### Equalizer -/

/-- R177, R29: no command ever lowers `EQ_FADE`. -/
def Obligations.EqFadeNeverFalls : Prop :=
  ∀ (i : Instr) (s t : State), exec i s = .next t → s.eq.fade.toNat ≤ t.eq.fade.toNat

/-- R181 with R176 and R177, written out: one equalized frame, the refresh included when it is due: the loudness estimates, the
accumulators, the fade and the ten shelves; then the counter, the squares of the stage's input added, saturating, and each
channel through its five shelves in cascade.  R183 (iv): on finite words the new estimate is never below the interval's level
(its bound on the fall holds up to rounding, log 22).
R179, R183 (iii): over the `n` equalized frames of a PROCESS the counter and the fade move as the refreshes they hold say: one
at `EQ_NEXT = 0`, then one every `EQ_INTERVAL` frames. -/
def Obligations.EqRefreshCadence : Prop :=
  (∀ (c : Config) (rate : F64) (e : Equalizer) (l r : F64),
    let level (pwr : BitVec 64) : F64 := fadd ⟨0x4058000000000000#64⟩ (fmul ⟨0x4024000000000000#64⟩
      (flog10 c (fadd (fdiv (i2d (pwr.toNat / e.interval.toNat : Nat)) ⟨0x42F0000000000000#64⟩) c.compEps)))
    let estimate (loud : F64) (pwr : BitVec 64) : F64 :=
      if fgt loud (fadd (level pwr) ⟨0x3FB999999999999A#64⟩) then fsub loud ⟨0x3FB999999999999A#64⟩ else level pwr
    let due : Equalizer :=
      if e.next = 0#32 then
        eqRefresh c e.interval rate
          { e with
            next := e.interval
            loud := ⟨estimate e.loud.l e.pwr.l, estimate e.loud.r e.pwr.r⟩
            pwr := ⟨0#64, 0#64⟩
            fade := if e.en = true ∧ e.fade.toNat < 100 then e.fade + 1#8 else e.fade }
      else e
    let addSquared (acc : BitVec 64) (x : F64) : BitVec 64 :=
      BitVec.ofNat 64 (min (acc.toNat + (d2i x).natAbs ^ 2) (2 ^ 64 - 1))
    let cascade (s : Shelves) (x : F64) : Shelves × F64 :=
      let p0 := bqProcess s.k0 x
      let p1 := bqProcess s.k1 p0.2
      let p2 := bqProcess s.k2 p1.2
      let p3 := bqProcess s.k3 p2.2
      let p4 := bqProcess s.k4 p3.2
      (⟨p0.1, p1.1, p2.1, p3.1, p4.1⟩, p4.2)
    eqFrame c rate e l r =
      ({ due with
          next := BitVec.ofNat 32 (due.next.toNat - 1)
          pwr := ⟨addSquared due.pwr.l l, addSquared due.pwr.r r⟩
          sh := ⟨(cascade due.sh.l l).1, (cascade due.sh.r r).1⟩ },
        (cascade due.sh.l l).2, (cascade due.sh.r r).2)) ∧
  (∀ (c : Config) (interval : BitVec 32) (loud : F64) (pwr : BitVec 64),
    isFinite loud = true → isFinite (loudnessDb c pwr interval) = true →
    fle (loudnessDb c pwr interval) (loudUpdate c interval loud pwr) = true) ∧
  (∀ (n : BitVec 64) (s t : State) (r : Response), StateOk s → exec (.process n) s = .next t → t.response = some r →
    r.status = 0x00#8 → s.eq.en = true →
    let due := s.eq.next.toNat
    let period := s.eq.interval.toNat
    let refreshes := if n.toNat ≤ due then 0 else (n.toNat - due + period - 1) / period
    t.eq.interval = s.eq.interval ∧
    t.eq.next.toNat = (if n.toNat ≤ due then due - n.toNat else (period - (n.toNat - due) % period) % period) ∧
    t.eq.fade.toNat = min 100 (s.eq.fade.toNat + refreshes))

/-- R172, R173, R175, R178 with their numbers: a refresh designs the five shelves of each channel from its six effective gains,
over the interval it is given, and writes nothing else.  R183 (i): with all band gains 0 and the loudness correction off it
designs every shelf for 0 dB with no flat gain, at every fade. -/
def Obligations.FlatEqualizerDesigns : Prop :=
  (∀ (c : Config) (interval : BitVec 32) (rate : F64) (e : Equalizer),
    let adjust (loud v20 v100 : F64) : F64 :=
      let lv := fadd loud e.loudRef
      let lv := if fgt lv ⟨0x4059000000000000#64⟩ then ⟨0x4059000000000000#64⟩ else lv
      let lv := if flt lv ⟨0x4034000000000000#64⟩ then ⟨0x4034000000000000#64⟩ else lv
      fadd v20 (fmul (fsub v100 v20) (fdiv (fsub lv ⟨0x4034000000000000#64⟩) ⟨0x4054000000000000#64⟩))
    let gain (loud : F64) (user : BitVec 64) (v20 v100 : F64) : F64 :=
      fmul (fadd (fdiv (i2d user.toInt) ⟨0x4059000000000000#64⟩) (if e.loudEn then adjust loud v20 v100 else posZero))
        (fdiv (i2d e.fade.toNat) ⟨0x4059000000000000#64⟩)
    let shelf (corner lo hi overallDb : F64) (b : Biquad) : Biquad :=
      bqConfigure c .highshelf interval corner rate c.eqShelfSlope (fsub hi lo) overallDb b
    let channel (loud : F64) (s : Shelves) : Shelves :=
      let g0 := gain loud e.band.b0 c.eqV20.b0 c.eqV100.b0
      let g1 := gain loud e.band.b1 c.eqV20.b1 c.eqV100.b1
      let g2 := gain loud e.band.b2 c.eqV20.b2 c.eqV100.b2
      let g3 := gain loud e.band.b3 c.eqV20.b3 c.eqV100.b3
      let g4 := gain loud e.band.b4 c.eqV20.b4 c.eqV100.b4
      let g5 := gain loud e.band.b5 c.eqV20.b5 c.eqV100.b5
      { k0 := shelf ⟨0x403F400000000000#64⟩ g0 g1 g0 s.k0, k1 := shelf ⟨0x405F400000000000#64⟩ g1 g2 posZero s.k1,
        k2 := shelf ⟨0x407F400000000000#64⟩ g2 g3 posZero s.k2, k3 := shelf ⟨0x409F400000000000#64⟩ g3 g4 posZero s.k3,
        k4 := shelf ⟨0x40BF400000000000#64⟩ g4 g5 posZero s.k4 }
    eqRefresh c interval rate e = { e with sh := ⟨channel e.loud.l e.sh.l, channel e.loud.r e.sh.r⟩ }) ∧
  (∀ (c : Config) (interval : BitVec 32) (rate : F64) (e : Equalizer),
    e.band = ⟨0#64, 0#64, 0#64, 0#64, 0#64, 0#64⟩ → e.loudEn = false →
    let flat (corner : F64) (b : Biquad) : Biquad :=
      bqConfigure c .highshelf interval corner rate c.eqShelfSlope posZero posZero b
    let channel (s : Shelves) : Shelves :=
      { k0 := flat ⟨0x403F400000000000#64⟩ s.k0, k1 := flat ⟨0x405F400000000000#64⟩ s.k1,
        k2 := flat ⟨0x407F400000000000#64⟩ s.k2, k3 := flat ⟨0x409F400000000000#64⟩ s.k3,
        k4 := flat ⟨0x40BF400000000000#64⟩ s.k4 }
    eqRefresh c interval rate e = { e with sh := ⟨channel e.sh.l, channel e.sh.r⟩ })

/-! ### Virtualizer -/

/-- R194, R195: one frame in full, at any level: the cross-feed, the delay lines, the inversion on the right, the
attenuation, the mid-side stage in both side modes.  R198 (i): without feedback the wet pair of frame `k` after a configure
is the inputs of `LEN` frames before, attenuated, zero words before that.  R197: at level 0 the wet pair is zero for every
frame with finite delayed words, and a mono frame through a zero localization history comes out as it went in, in both
side modes (a zero up to its sign; |x| below 2^1023, so that x + x is finite, log 22). -/
def Obligations.VirtSilentAtStrengthZero : Prop :=
  (∀ (c : Config) (v : Virtualizer) (l r : F64),
    let pl := dlProcess v.dly.l (if v.deep then fadd l v.last.r else l)
    let pr := dlProcess v.dly.r (if v.deep then fadd r v.last.l else r)
    let wl := fdiv (fmul pl.2 (i2d v.level.toNat)) ⟨0x41F0000000000000#64⟩
    let wr := fdiv (fmul (if v.wide then fneg pr.2 else pr.2) (i2d v.level.toNat)) ⟨0x41F0000000000000#64⟩
    let center := fmul (fadd (fadd l wl) (fadd r wr)) ⟨0x3FE0000000000000#64⟩
    let side := fmul (fsub (fadd l wl) (fadd r wr)) ⟨0x3FE0000000000000#64⟩
    let y := bqProcess v.loc side
    let reduced := if c.virtSideMode = .filter then y.2 else fsub side y.2
    virtFrame c v l r =
      ({ v with dly := ⟨pl.1, pr.1⟩, last := ⟨wl, wr⟩, loc := y.1 }, fadd center reduced, fsub center reduced)) ∧
  (∀ (c : Config) (v : Virtualizer) (rate secondsL secondsR : F64) (frames : List (F64 × F64)) (l r : F64),
    v.deep = false →
    let start : Virtualizer :=
      { v with dly := ⟨dlConfigure rate secondsL v.dly.l, dlConfigure rate secondsR v.dly.r⟩ }
    let now := frames.foldl (fun k f => (virtFrame c k f.1 f.2).1) start
    let delayed (xs : List F64) (len : Nat) : F64 :=
      if frames.length < len then posZero else (xs[frames.length - len]?).getD posZero
    let dl := delayed (frames.map Prod.fst ++ [l]) start.dly.l.len.toNat
    let dr := delayed (frames.map Prod.snd ++ [r]) start.dly.r.len.toNat
    (virtFrame c now l r).1.last =
      ⟨fdiv (fmul dl (i2d v.level.toNat)) ⟨0x41F0000000000000#64⟩,
       fdiv (fmul (if v.wide then fneg dr else dr) (i2d v.level.toNat)) ⟨0x41F0000000000000#64⟩⟩) ∧
  (∀ (c : Config) (v : Virtualizer) (l r : F64), v.level = 0#64 →
    isFinite (dlOut v.dly.l (virtFeed v l v.last.r)) = true → isFinite (dlOut v.dly.r (virtFeed v r v.last.l)) = true →
    isZero (virtFrame c v l r).1.last.l = true ∧ isZero (virtFrame c v l r).1.last.r = true) ∧
  (∀ (c : Config) (v : Virtualizer) (x : F64), v.level = 0#64 →
    isFinite (dlOut v.dly.l (virtFeed v x v.last.r)) = true → isFinite (dlOut v.dly.r (virtFeed v x v.last.l)) = true →
    isFinite x = true → |toReal x| < 2 ^ 1023 →
    FiniteSet v.loc.cur → isZero v.loc.w1 = true → isZero v.loc.w2 = true →
    (isZero x = false → (virtFrame c v x x).2 = (x, x)) ∧
    (isZero x = true → isZero (virtFrame c v x x).2.1 = true ∧ isZero (virtFrame c v x x).2.2 = true))

/-! ### Arithmetic -/

/-- R12: sums, differences and products of finite words are the correctly rounded ones, with IEEE 754's signs of an
exact zero. -/
def Obligations.SumAndProductRound : Prop :=
  ∀ x y : F64, isFinite x = true → isFinite y = true →
    RoundsTo (fadd x y) (toReal x + toReal y) ∧ RoundsTo (fsub x y) (toReal x - toReal y) ∧
    RoundsTo (fmul x y) (toReal x * toReal y) ∧ fsign (fmul x y) = (fsign x != fsign y) ∧
    (toReal x + toReal y = 0 → fadd x y = if fsign x && fsign y then negZero else posZero) ∧
    (toReal x - toReal y = 0 → fsub x y = if fsign x && !fsign y then negZero else posZero)

/-- R12: quotients and square roots are the correctly rounded ones. -/
def Obligations.QuotientAndRootRound : Prop :=
  (∀ x y : F64, isFinite x = true → isFinite y = true → isZero y = false →
    RoundsTo (fdiv x y) (toReal x / toReal y) ∧ fsign (fdiv x y) = (fsign x != fsign y)) ∧
  (∀ x : F64, isFinite x = true → fsign x = false → RoundsTo (fsqrt x) (Real.sqrt (toReal x)))

/-- R15: `d2i` truncates toward zero and saturates, 0 for a NaN; `i2d` is the nearest word, and exact up to 2^53; for
`x ≥ 0`, `rnd(x)` is `d2i(x + 0.5)`. -/
def Obligations.ConversionsTruncateAndRound : Prop :=
  (∀ x : F64, fge x posZero = true → rnd x = d2i (fadd x ⟨0x3FE0000000000000#64⟩)) ∧
  (∀ x : F64, isNaN x = true → d2i x = 0) ∧
  (∀ x : F64, isInf x = true → d2i x = if fsign x then -(2 ^ 63) else 2 ^ 63 - 1) ∧
  (∀ x : F64, isFinite x = true →
    (0 ≤ toReal x → d2i x = min ⌊toReal x⌋ (2 ^ 63 - 1)) ∧ (toReal x ≤ 0 → d2i x = max ⌈toReal x⌉ (-(2 ^ 63)))) ∧
  (∀ n : Int, RoundsTo (i2d n) (n : ℝ)) ∧
  (∀ n : Int, |n| ≤ 2 ^ 53 → toReal (i2d n) = n ∧ d2i (i2d n) = n)

/-- R12: on finite words the comparisons are those of the real numbers; with a NaN all are false but `≠`. -/
def Obligations.ComparisonsFollowTheReals : Prop :=
  (∀ x y : F64, isFinite x = true → isFinite y = true →
    (flt x y = true ↔ toReal x < toReal y) ∧ (fle x y = true ↔ toReal x ≤ toReal y) ∧
    (fgt x y = true ↔ toReal x > toReal y) ∧ (fge x y = true ↔ toReal x ≥ toReal y) ∧
    (feq x y = true ↔ toReal x = toReal y) ∧ (fne x y = true ↔ toReal x ≠ toReal y)) ∧
  (∀ x y : F64, isNaN x = true ∨ isNaN y = true →
    flt x y = false ∧ fle x y = false ∧ fgt x y = false ∧ fge x y = false ∧ feq x y = false ∧ fne x y = true)
end

