-- ==== Sys2Proof/Laws/Biquad.lean ====
section
/-! SUPPORT. What the operations of a biquad instance do to its registers (40_biquad.md). -/

namespace Sys2Proof.Machine

@[simp] theorem bqInstall_w1 (new : Coeffs) (n : BitVec 32) (b : Biquad) : (bqInstall new n b).w1 = b.w1 := by
  unfold bqInstall; split <;> rfl

@[simp] theorem bqInstall_w2 (new : Coeffs) (n : BitVec 32) (b : Biquad) : (bqInstall new n b).w2 = b.w2 := by
  unfold bqInstall; split <;> rfl

@[simp] theorem bqInstall_tgt (new : Coeffs) (n : BitVec 32) (b : Biquad) : (bqInstall new n b).tgt = new := by
  unfold bqInstall; split <;> rfl

@[simp] theorem bqInstall_rem (new : Coeffs) (n : BitVec 32) (b : Biquad) : (bqInstall new n b).rem = n := by
  unfold bqInstall; split <;> simp_all

theorem bqInstall_zero (new : Coeffs) (b : Biquad) :
    bqInstall new 0#32 b = { cur := new, tgt := new, rem := 0#32, w1 := b.w1, w2 := b.w2 } := rfl

theorem bqInstall_settled (new : Coeffs) (n : BitVec 32) (b : Biquad) : BiquadSettled (bqInstall new n b) := by
  intro h
  rw [bqInstall_rem] at h
  subst h
  rfl

@[simp] theorem bqStep_tgt (b : Biquad) : (bqStep b).tgt = b.tgt := by
  unfold bqStep; split_ifs <;> rfl

@[simp] theorem bqStep_w1 (b : Biquad) : (bqStep b).w1 = b.w1 := by
  unfold bqStep; split_ifs <;> rfl

@[simp] theorem bqStep_w2 (b : Biquad) : (bqStep b).w2 = b.w2 := by
  unfold bqStep; split_ifs <;> rfl

/-- One step takes one call off the ramp, if one is left (R24 (iii)). -/
theorem bqStep_rem (b : Biquad) : (bqStep b).rem = if b.rem = 0#32 then 0#32 else b.rem - 1#32 := by
  unfold bqStep
  split_ifs with h0 h1
  · exact h0
  · simp [h1]
  · rfl

/-- A settled instance stays settled through a step (R24 (i)). -/
theorem bqStep_settled {b : Biquad} (h : BiquadSettled b) : BiquadSettled (bqStep b) := by
  unfold bqStep
  split_ifs with h0 h1
  · exact h
  · intro _; rfl
  · intro h2
    have : b.rem - 1#32 = 0#32 := h2
    exact absurd (by bv_omega) h1

/-- With no call left a step does nothing. -/
theorem bqStep_of_rem_zero {b : Biquad} (h : b.rem = 0#32) : bqStep b = b := by
  simp [bqStep, h]

@[simp] theorem bqProcess_rem (b : Biquad) (x : F64) :
    (bqProcess b x).1.rem = if b.rem = 0#32 then 0#32 else b.rem - 1#32 := bqStep_rem _

@[simp] theorem bqProcess_tgt (b : Biquad) (x : F64) : (bqProcess b x).1.tgt = b.tgt := bqStep_tgt _

theorem bqProcess_settled {b : Biquad} (h : BiquadSettled b) (x : F64) : BiquadSettled (bqProcess b x).1 :=
  bqStep_settled (b := { b with w2 := b.w1, w1 := bqW b x }) h

/-- An instance with no call left keeps its current set. -/
theorem bqProcess_cur_of_rem_zero {b : Biquad} (h : b.rem = 0#32) (x : F64) : (bqProcess b x).1.cur = b.cur := by
  simp [bqProcess, bqStep, h]

@[simp] theorem bqClear_rem (b : Biquad) : (bqClear b).rem = b.rem := rfl
@[simp] theorem bqClear_cur (b : Biquad) : (bqClear b).cur = b.cur := rfl
@[simp] theorem bqClear_tgt (b : Biquad) : (bqClear b).tgt = b.tgt := rfl
@[simp] theorem bqClear_w1 (b : Biquad) : (bqClear b).w1 = posZero := rfl
@[simp] theorem bqClear_w2 (b : Biquad) : (bqClear b).w2 = posZero := rfl

theorem bqClear_settled {b : Biquad} (h : BiquadSettled b) : BiquadSettled (bqClear b) := h

/-- A design installed at once and its history cleared: both sets are the design, no call left, zero history. -/
theorem designAndClear_eq (c : Config) (kind : BqKind) (f rate p dBGain overallDb : F64) (b : Biquad) :
    designAndClear c kind f rate p dBGain overallDb b =
      { cur := bqDesign c kind f rate p dBGain overallDb, tgt := bqDesign c kind f rate p dBGain overallDb,
        rem := 0#32, w1 := posZero, w2 := posZero } := rfl

/-! ### The designs -/

/-- On a finite argument `fsinh` is the configuration's function. -/
theorem fsinh_of_finite (c : Config) {x : F64} (h : isFinite x = true) : fsinh c x = c.sinh x := by
  simp [fsinh, h]

/-- Of an infinity or a NaN `fsinh` is not finite (log 5). -/
theorem fsinh_not_finite (c : Config) {x : F64} (h : isFinite x = false) : isFinite (fsinh c x) = false := by
  unfold fsinh
  simp only [h, Bool.false_or]
  split <;> simp_all

/-- With the spec's equations as `BQ_DESIGN` a low-pass is designed by R104. -/
theorem designTerms_lowpass {c : Config} (h : c.bqDesign = .cookbook) (f rate p dBGain overallDb : F64) :
    designTerms c .lowpass f rate p dBGain overallDb = designLowpass c f rate p := by
  unfold designTerms; rw [h]

/-- With the spec's equations as `BQ_DESIGN` a band-pass is designed by R105. -/
theorem designTerms_bandpass {c : Config} (h : c.bqDesign = .cookbook) (f rate p dBGain overallDb : F64) :
    designTerms c .bandpass f rate p dBGain overallDb = designBandpass c f rate p := by
  unfold designTerms; rw [h]

/-- With the spec's equations as `BQ_DESIGN` a high shelf is designed by R106. -/
theorem designTerms_highshelf {c : Config} (h : c.bqDesign = .cookbook) (f rate p dBGain overallDb : F64) :
    designTerms c .highshelf f rate p dBGain overallDb = designHighshelf c f rate p dBGain overallDb := by
  unfold designTerms; rw [h]

/-- `alpha` of R106 as the rule writes it, by cases on the mode. -/
theorem shelfAlpha_eq (mode : ShelfParamMode) (sn a s : F64) :
    shelfAlpha mode sn a s =
      if mode = .slope then
        fmul (fdiv sn two) (fsqrt (fadd (fmul (fadd a (fdiv fone a)) (fsub (fdiv fone s) fone)) two))
      else fdiv sn (fmul two s) := by
  cases mode
  · rw [if_pos rfl]; rfl
  · rw [if_neg nofun]; rfl

/-! ### The five shelves of a channel -/

/-- One call each takes every shelf's count down together. -/
theorem runShelves_ramp {n : BitVec 32} {s : Shelves} (h : ShelvesRamp n s) (x : F64) :
    ShelvesRamp (if n = 0#32 then 0#32 else n - 1#32) (runShelves s x).1 where
  settled0 := bqProcess_settled h.settled0 _
  settled1 := bqProcess_settled h.settled1 _
  settled2 := bqProcess_settled h.settled2 _
  settled3 := bqProcess_settled h.settled3 _
  settled4 := bqProcess_settled h.settled4 _
  rem0 := by show (bqProcess s.k0 _).1.rem = _; rw [bqProcess_rem, h.rem0]
  rem1 := by show (bqProcess s.k1 _).1.rem = _; rw [bqProcess_rem, h.rem1]
  rem2 := by show (bqProcess s.k2 _).1.rem = _; rw [bqProcess_rem, h.rem2]
  rem3 := by show (bqProcess s.k3 _).1.rem = _; rw [bqProcess_rem, h.rem3]
  rem4 := by show (bqProcess s.k4 _).1.rem = _; rw [bqProcess_rem, h.rem4]

/-- A refresh gives all five the same number of calls. -/
theorem refreshShelves_ramp (c : Config) (n : BitVec 32) (rate : F64) (g : BandTable) (s : Shelves) :
    ShelvesRamp n (refreshShelves c n rate g s) where
  settled0 := bqInstall_settled _ _ _
  settled1 := bqInstall_settled _ _ _
  settled2 := bqInstall_settled _ _ _
  settled3 := bqInstall_settled _ _ _
  settled4 := bqInstall_settled _ _ _
  rem0 := bqInstall_rem _ _ _
  rem1 := bqInstall_rem _ _ _
  rem2 := bqInstall_rem _ _ _
  rem3 := bqInstall_rem _ _ _
  rem4 := bqInstall_rem _ _ _

theorem clearShelves_ramp {n : BitVec 32} {s : Shelves} (h : ShelvesRamp n s) : ShelvesRamp n (clearShelves s) where
  settled0 := h.settled0
  settled1 := h.settled1
  settled2 := h.settled2
  settled3 := h.settled3
  settled4 := h.settled4
  rem0 := h.rem0
  rem1 := h.rem1
  rem2 := h.rem2
  rem3 := h.rem3
  rem4 := h.rem4

end Sys2Proof.Machine
end

