-- ==== Sys2Proof/Laws/Memory.lean ====
section
/-! SUPPORT. The delay RAM words: a read after a write, the canonical form, and that the form is unique. -/

namespace Sys2Proof.Machine

theorem memWf_cons {i : Nat} {w : F64} {rest : WordMem} :
    memWf ((i, w) :: rest) = true ↔ w ≠ cellDefault ∧ (∀ p ∈ rest, i < p.1) ∧ memWf rest = true := by
  simp [memWf, and_assoc]

theorem memWf_nil : memWf [] = true := rfl

/-- An index below every listed one reads the default. -/
theorem memRead_below {m : WordMem} {i : Nat} (h : ∀ p ∈ m, i < p.1) : memRead m i = cellDefault := by
  induction m with
  | nil => rfl
  | cons p rest ih =>
    have hp := h p (by simp)
    simp only [memRead, if_neg (Nat.ne_of_lt hp)]
    exact ih fun q hq => h q (by simp [hq])

/-- Every index a write leaves listed was listed before, or is the one written. -/
theorem mem_memWrite {m : WordMem} {i : Nat} {v : F64} {p : Nat × F64} (h : p ∈ memWrite m i v) :
    p = (i, v) ∨ p ∈ m := by
  induction m with
  | nil =>
    simp only [memWrite] at h
    split at h <;> simp_all
  | cons q rest ih =>
    obtain ⟨j, w⟩ := q
    simp only [memWrite] at h
    split_ifs at h <;> simp only [List.mem_cons] at h ⊢ <;> tauto

/-- A write keeps the canonical form. -/
theorem memWf_memWrite {m : WordMem} (hm : memWf m = true) (i : Nat) (v : F64) :
    memWf (memWrite m i v) = true := by
  induction m with
  | nil =>
    simp only [memWrite]
    split
    · rfl
    · simpa [memWf] using ‹_›
  | cons q rest ih =>
    obtain ⟨j, w⟩ := q
    obtain ⟨hw, hlt, hrest⟩ := memWf_cons.1 hm
    simp only [memWrite]
    split_ifs with h1 h2 h3 h4
    · exact hm
    · refine memWf_cons.2 ⟨h2, ?_, hm⟩
      intro p hp
      rcases List.mem_cons.1 hp with rfl | hp
      · exact h1
      · exact lt_trans h1 (hlt p hp)
    · exact hrest
    · exact memWf_cons.2 ⟨h4, h3 ▸ hlt, hrest⟩
    · refine memWf_cons.2 ⟨hw, ?_, ih hrest⟩
      intro p hp
      rcases mem_memWrite hp with rfl | hp
      · show j < i
        omega
      · exact hlt p hp

/-- What a write does to a read: the word at the index written, every other index as before. -/
theorem memRead_memWrite {m : WordMem} (hm : memWf m = true) (i j : Nat) (v : F64) :
    memRead (memWrite m i v) j = if j = i then v else memRead m j := by
  induction m with
  | nil =>
    simp only [memWrite]
    split_ifs with h1 h2 h2
    · exact h1.symm
    · rfl
    · simp [memRead, h2]
    · simp [memRead, h2]
  | cons q rest ih =>
    obtain ⟨k, w⟩ := q
    obtain ⟨hw, hlt, hrest⟩ := memWf_cons.1 hm
    simp only [memWrite]
    split_ifs with h1 h2 h3 h4 h5 h6 h7
    · subst h3
      rw [memRead_below]
      · exact h2.symm
      · intro p hp
        rcases List.mem_cons.1 hp with rfl | hp
        · exact h1
        · exact lt_trans h1 (hlt p hp)
    · rfl
    · simp [memRead, *]
    · simp [memRead, *]
    · subst h5; subst h7
      rw [memRead_below hlt]
      exact h6.symm
    · subst h5
      simp [memRead, h7]
    · simp [memRead, *]
    · subst h5
      simp [memRead, *]
    · rename_i h8
      subst h8
      simp [memRead, ih hrest, h5]
    · simp only [memRead, ih hrest]
      split_ifs <;> simp_all

@[simp] theorem memRead_nil (i : Nat) : memRead [] i = cellDefault := rfl

/-- Two memories in canonical form that read alike are the same list. -/
theorem memWf_ext {a b : WordMem} (ha : memWf a = true) (hb : memWf b = true)
    (h : ∀ i, memRead a i = memRead b i) : a = b := by
  induction a generalizing b with
  | nil =>
    cases b with
    | nil => rfl
    | cons q rest =>
      obtain ⟨k, w⟩ := q
      have := h k
      simp [memRead] at this
      exact absurd this.symm (memWf_cons.1 hb).1
  | cons p as ih =>
    obtain ⟨i, v⟩ := p
    obtain ⟨hv, hia, has⟩ := memWf_cons.1 ha
    cases b with
    | nil =>
      have := h i
      simp [memRead] at this
      exact absurd this hv
    | cons q bs =>
      obtain ⟨k, w⟩ := q
      obtain ⟨hw, hkb, hbs⟩ := memWf_cons.1 hb
      have hik : i = k := by
        rcases Nat.lt_trichotomy i k with hlt | heq | hgt
        · have := h i
          rw [memRead_below (m := (k, w) :: bs) (by
            intro p hp
            rcases List.mem_cons.1 hp with rfl | hp
            · exact hlt
            · exact lt_trans hlt (hkb p hp))] at this
          simp [memRead] at this
          exact absurd this hv
        · exact heq
        · have := h k
          rw [memRead_below (m := (i, v) :: as) (by
            intro p hp
            rcases List.mem_cons.1 hp with rfl | hp
            · exact hgt
            · exact lt_trans hgt (hia p hp))] at this
          simp [memRead] at this
          exact absurd this.symm hw
      subst hik
      have hvw : v = w := by simpa [memRead] using h i
      subst hvw
      rw [ih has hbs fun j => ?_]
      by_cases hj : j = i
      · subst hj
        rw [memRead_below hia, memRead_below hkb]
      · simpa [memRead, hj] using h j

end Sys2Proof.Machine
end

