-- ==== Sys2Proof/Laws/Delay.lean ====
section
/-! SUPPORT. What the operations of a delay line do (41_delayline.md). -/

namespace Sys2Proof.Machine

theorem dlConfigure_ok (rate seconds : F64) (d : DelayLine) : DelayOk (dlConfigure rate seconds d) where
  cursor := by simp [dlConfigure]
  canonical := rfl
  inside := by simp [dlConfigure]

theorem dlReset_ok : DelayOk DelayLine.reset where
  cursor := by decide
  canonical := rfl
  inside := by simp [DelayLine.reset]

@[simp] theorem dlNext_len (d : DelayLine) (x : F64) : (dlNext d x).len = d.len := by
  unfold dlNext; split <;> rfl

/-- Length zero: nothing is stored (R123). -/
theorem dlNext_of_len_zero {d : DelayLine} (h : d.len = 0#32) (x : F64) : dlNext d x = d := by
  simp [dlNext, h]

/-- The cursor after a call, as a number: one back, with wrap (R122). -/
theorem dlNext_cur {d : DelayLine} (h : d.len ≠ 0#32) (x : F64) :
    (dlNext d x).cur.toNat = if d.cur.toNat = 0 then d.len.toNat - 1 else d.cur.toNat - 1 := by
  have hl : 1 ≤ d.len.toNat := by
    rcases Nat.eq_zero_or_pos d.len.toNat with h0 | h0
    · exact absurd (BitVec.eq_of_toNat_eq h0) h
    · exact h0
  simp only [dlNext, if_neg h]
  by_cases hc : d.cur = 0#32
  · simp only [hc, if_true]
    simp
    omega
  · have hc' : d.cur.toNat ≠ 0 := fun h0 => hc (BitVec.eq_of_toNat_eq h0)
    simp only [if_neg hc, if_neg hc']
    have := d.cur.isLt
    simp
    omega

@[simp] theorem dlNext_buf {d : DelayLine} (h : d.len ≠ 0#32) (x : F64) :
    (dlNext d x).buf = memWrite d.buf d.cur.toNat x := by
  simp [dlNext, h]

/-- A line in order is in bounds. -/
theorem DelayOk.inBounds {d : DelayLine} (h : DelayOk d) : dlInBounds d = true := by
  have := h.cursor
  unfold dlInBounds
  by_cases h0 : d.len = 0#32
  · simp [h0]
  · have hl : d.len.toNat ≠ 0 := fun h1 => h0 (BitVec.eq_of_toNat_eq h1)
    simp [h0]
    omega

/-- A call keeps a line in order (R124 (i)). -/
theorem dlNext_ok {d : DelayLine} (h : DelayOk d) (x : F64) : DelayOk (dlNext d x) := by
  by_cases h0 : d.len = 0#32
  · rw [dlNext_of_len_zero h0]; exact h
  · have hl : d.len.toNat ≠ 0 := fun h1 => h0 (BitVec.eq_of_toNat_eq h1)
    have hc := h.cursor
    refine ⟨?_, ?_, ?_⟩
    · rw [dlNext_cur h0, dlNext_len]
      split <;> omega
    · rw [dlNext_buf h0]; exact memWf_memWrite h.canonical _ _
    · intro p hp
      rw [dlNext_buf h0] at hp
      rw [dlNext_len]
      rcases mem_memWrite hp with rfl | hp
      · show d.cur.toNat < d.len.toNat
        omega
      · exact h.inside p hp

end Sys2Proof.Machine
end

