-- ==== Sys2Proof/Laws/State.lean ====
section
/-! SUPPORT. One lemma per field per named update of State, each true by rfl. -/

namespace Sys2Proof.Machine

@[simp] theorem reply_configured (s : State) (st : BitVec 8) (res : BitVec 64) (so : Option (List F64)) :
    (reply s st res so).configured = s.configured := rfl

@[simp] theorem reply_rate (s : State) (st : BitVec 8) (res : BitVec 64) (so : Option (List F64)) :
    (reply s st res so).rate = s.rate := rfl

@[simp] theorem reply_enc (s : State) (st : BitVec 8) (res : BitVec 64) (so : Option (List F64)) :
    (reply s st res so).enc = s.enc := rfl

@[simp] theorem reply_masterEn (s : State) (st : BitVec 8) (res : BitVec 64) (so : Option (List F64)) :
    (reply s st res so).masterEn = s.masterEn := rfl

@[simp] theorem reply_comp (s : State) (st : BitVec 8) (res : BitVec 64) (so : Option (List F64)) :
    (reply s st res so).comp = s.comp := rfl

@[simp] theorem reply_bass (s : State) (st : BitVec 8) (res : BitVec 64) (so : Option (List F64)) :
    (reply s st res so).bass = s.bass := rfl

@[simp] theorem reply_eq (s : State) (st : BitVec 8) (res : BitVec 64) (so : Option (List F64)) :
    (reply s st res so).eq = s.eq := rfl

@[simp] theorem reply_virt (s : State) (st : BitVec 8) (res : BitVec 64) (so : Option (List F64)) :
    (reply s st res so).virt = s.virt := rfl

@[simp] theorem reply_fir (s : State) (st : BitVec 8) (res : BitVec 64) (so : Option (List F64)) :
    (reply s st res so).fir = s.fir := rfl

@[simp] theorem reply_inbox (s : State) (st : BitVec 8) (res : BitVec 64) (so : Option (List F64)) :
    (reply s st res so).inbox = s.inbox := rfl

@[simp] theorem reply_sin (s : State) (st : BitVec 8) (res : BitVec 64) (so : Option (List F64)) :
    (reply s st res so).sin = [] := rfl

@[simp] theorem reply_response (s : State) (st : BitVec 8) (res : BitVec 64) (so : Option (List F64)) :
    (reply s st res so).response = some { status := st, res := res, sout := so } := rfl

@[simp] theorem accept_configured (s : State) (sin : List F64) (rest : List Command) :
    (accept s sin rest).configured = s.configured := rfl

@[simp] theorem accept_rate (s : State) (sin : List F64) (rest : List Command) :
    (accept s sin rest).rate = s.rate := rfl

@[simp] theorem accept_enc (s : State) (sin : List F64) (rest : List Command) :
    (accept s sin rest).enc = s.enc := rfl

@[simp] theorem accept_masterEn (s : State) (sin : List F64) (rest : List Command) :
    (accept s sin rest).masterEn = s.masterEn := rfl

@[simp] theorem accept_comp (s : State) (sin : List F64) (rest : List Command) :
    (accept s sin rest).comp = s.comp := rfl

@[simp] theorem accept_bass (s : State) (sin : List F64) (rest : List Command) :
    (accept s sin rest).bass = s.bass := rfl

@[simp] theorem accept_eq (s : State) (sin : List F64) (rest : List Command) :
    (accept s sin rest).eq = s.eq := rfl

@[simp] theorem accept_virt (s : State) (sin : List F64) (rest : List Command) :
    (accept s sin rest).virt = s.virt := rfl

@[simp] theorem accept_fir (s : State) (sin : List F64) (rest : List Command) :
    (accept s sin rest).fir = s.fir := rfl

@[simp] theorem accept_inbox (s : State) (sin : List F64) (rest : List Command) :
    (accept s sin rest).inbox = rest := rfl

@[simp] theorem accept_sin (s : State) (sin : List F64) (rest : List Command) :
    (accept s sin rest).sin = sin := rfl

@[simp] theorem accept_response (s : State) (sin : List F64) (rest : List Command) :
    (accept s sin rest).response = s.response := rfl

@[simp] theorem withFetchWord_configured (s : State) (nbits w : Nat) :
    (s.withFetchWord nbits w).configured = s.configured := rfl

@[simp] theorem withFetchWord_rate (s : State) (nbits w : Nat) :
    (s.withFetchWord nbits w).rate = s.rate := rfl

@[simp] theorem withFetchWord_enc (s : State) (nbits w : Nat) :
    (s.withFetchWord nbits w).enc = s.enc := rfl

@[simp] theorem withFetchWord_masterEn (s : State) (nbits w : Nat) :
    (s.withFetchWord nbits w).masterEn = s.masterEn := rfl

@[simp] theorem withFetchWord_comp (s : State) (nbits w : Nat) :
    (s.withFetchWord nbits w).comp = s.comp := rfl

@[simp] theorem withFetchWord_bass (s : State) (nbits w : Nat) :
    (s.withFetchWord nbits w).bass = s.bass := rfl

@[simp] theorem withFetchWord_eq (s : State) (nbits w : Nat) :
    (s.withFetchWord nbits w).eq = s.eq := rfl

@[simp] theorem withFetchWord_virt (s : State) (nbits w : Nat) :
    (s.withFetchWord nbits w).virt = s.virt := rfl

@[simp] theorem withFetchWord_fir (s : State) (nbits w : Nat) :
    (s.withFetchWord nbits w).fir = s.fir := rfl

@[simp] theorem withFetchWord_inbox (s : State) (nbits w : Nat) :
    (s.withFetchWord nbits w).inbox = { cw := (tableWords nbits w).1, opd := (tableWords nbits w).2, sin := [] } :: s.inbox := rfl

@[simp] theorem withFetchWord_sin (s : State) (nbits w : Nat) :
    (s.withFetchWord nbits w).sin = s.sin := rfl

@[simp] theorem withFetchWord_response (s : State) (nbits w : Nat) :
    (s.withFetchWord nbits w).response = s.response := rfl

end Sys2Proof.Machine
end

