-- ==== Sys2Proof/Laws/Ops.lean ====
section
/-! SUPPORT. What the shared operations over the command port can do: one lemma each. -/

namespace Sys2Proof.Machine

/-- An error answers its code and nothing else changes. -/
theorem raise_next {code : BitVec 8} {s t : State} (h : raise code s = .next t) : t = reply s code 0#64 none := by
  simpa [raise] using h.symm

/-- A completed command without output block answers its result. -/
theorem complete_next {res : BitVec 64} {s t : State} (h : complete res s = .next t) :
    t = reply s statusOk res none := by
  simpa [complete] using h.symm

/-- A legal operand is written and the command completes. -/
theorem setKnob_some {α : Type} (v : α) (write : α → State → State) (s : State) :
    setKnob (some v) write s = .next (reply (write v s) statusOk 0#64 none) := rfl

/-- An operand that is not legal is refused and nothing is written. -/
theorem setKnob_none {α : Type} (write : α → State → State) (s : State) :
    setKnob none write s = .next (reply s eParamRange 0#64 none) := rfl

/-- What a SETP can do: refuse its operand, or write it. -/
theorem setKnob_next {α : Type} {operand : Option α} {write : α → State → State} {s t : State}
    (h : setKnob operand write s = .next t) :
    (operand = none ∧ t = reply s eParamRange 0#64 none) ∨
      (∃ v, operand = some v ∧ t = reply (write v s) statusOk 0#64 none) := by
  cases operand with
  | none => exact .inl ⟨rfl, raise_next h⟩
  | some v => exact .inr ⟨v, rfl, complete_next h⟩

/-! ### Operand forms -/

@[simp] theorem boolOperand_encodeBool (b : Bool) : boolOperand (encodeBool b) = some b := by
  cases b <;> rfl

/-- A bool operand is legal only as the word of its value. -/
theorem boolOperand_eq_some {opd : BitVec 64} {b : Bool} (h : boolOperand opd = some b) : opd = encodeBool b := by
  unfold boolOperand at h
  split_ifs at h <;> simp_all [encodeBool]

theorem boolOperand_eq_none {opd : BitVec 64} : boolOperand opd = none ↔ opd ≠ 0#64 ∧ opd ≠ 1#64 := by
  unfold boolOperand
  split_ifs <;> simp_all

theorem i64Operand_eq_some {lo hi : Int} {opd v : BitVec 64} :
    i64Operand lo hi opd = some v ↔ v = opd ∧ lo ≤ opd.toInt ∧ opd.toInt ≤ hi := by
  unfold i64Operand
  split_ifs with h
  · simp [h, eq_comm]
  · simp only [false_iff, not_and]
    exact fun _ h1 h2 => h ⟨h1, h2⟩

theorem f64Operand_eq_some {legal : F64 → Bool} {opd : BitVec 64} {v : F64} :
    f64Operand legal opd = some v ↔ v = ⟨opd⟩ ∧ isFinite ⟨opd⟩ = true ∧ legal ⟨opd⟩ = true := by
  unfold f64Operand
  split_ifs with h
  · simp only [Bool.and_eq_true] at h
    simp [h, eq_comm]
  · simp only [Bool.and_eq_true] at h
    simp only [false_iff, not_and]
    exact fun _ h1 h2 => h ⟨h1, h2⟩

end Sys2Proof.Machine
end

