-- ==== Sys2Proof/Laws/Chain.lean ====
section
/-! SUPPORT. What a frame, a block and a PROCESS can do (47_process_chain.md): which registers they write, how many words
they put out, and how a block splits. -/

namespace Sys2Proof.Machine

/-! ### One frame -/

theorem compStage_state (g : Gates) (adj : Stereo Int) (s : State) (l r : F64) :
    (compStage g adj s l r).1 = { s with comp := if g.comp then compFrameNext adj s.comp else s.comp } := by
  unfold compStage; split <;> rfl

theorem bassStage_state (g : Gates) (s : State) (l r : F64) :
    (bassStage g s l r).1 = { s with bass := if g.bass then (bassFrame s.bass l r).1 else s.bass } := by
  unfold bassStage; split <;> rfl

theorem virtStage_state (c : Config) (g : Gates) (s : State) (l r : F64) :
    (virtStage c g s l r).1 = { s with virt := if g.virt then (virtFrame c s.virt l r).1 else s.virt } := by
  unfold virtStage; split <;> rfl

theorem eqStage_state (c : Config) (g : Gates) (s : State) (l r : F64) :
    (eqStage c g s l r).1 = { s with eq := if g.eq then (eqFrame c s.rate s.eq l r).1 else s.eq } := by
  unfold eqStage; split <;> rfl

/-- All a frame can do to the state: each running stage advances its own effect on some pair of samples, and nothing
else moves. -/
theorem chainFrame_state (c : Config) (g : Gates) (adj : Stereo Int) (s : State) (l r : F64) :
    ∃ b0 b1 v0 v1 e0 e1, (chainFrame c g adj s l r).1 =
      { s with
        comp := if g.comp then compFrameNext adj s.comp else s.comp
        bass := if g.bass then (bassFrame s.bass b0 b1).1 else s.bass
        virt := if g.virt then (virtFrame c s.virt v0 v1).1 else s.virt
        eq := if g.eq then (eqFrame c s.rate s.eq e0 e1).1 else s.eq } := by
  unfold chainFrame
  simp only [eqStage_state, virtStage_state, bassStage_state, compStage_state]
  exact ⟨_, _, _, _, _, _, rfl⟩

/-! ### The frames of a block -/

@[simp] theorem runFrames_nil (c : Config) (g : Gates) (adj : Stereo Int) (s : State) :
    runFrames c g adj s [] = (s, []) := rfl

theorem runFrames_cons (c : Config) (g : Gates) (adj : Stereo Int) (s : State) (l r : F64) (rest : List F64) :
    runFrames c g adj s (l :: r :: rest) =
      ((runFrames c g adj (chainFrame c g adj s l r).1 rest).1,
        (chainFrame c g adj s l r).2.1 :: (chainFrame c g adj s l r).2.2 ::
          (runFrames c g adj (chainFrame c g adj s l r).1 rest).2) := rfl

/-- What every frame keeps, a block keeps. -/
theorem runFrames_keeps {c : Config} {g : Gates} {adj : Stereo Int} (P : State → Prop)
    (frame : ∀ s l r, P s → P (chainFrame c g adj s l r).1) {s : State} (h : P s) (words : List F64) :
    P (runFrames c g adj s words).1 := by
  induction words using List.twoStepInduction generalizing s with
  | nil => exact h
  | singleton x => exact h
  | cons_cons l r rest ih => exact ih (frame s l r h)

/-- What follows the number of frames: if a frame takes `P k` to `P (k + 1)`, a block of `n` frames takes `P 0` to
`P n`. -/
theorem runFrames_counts {c : Config} {g : Gates} {adj : Stereo Int} (P : Nat → State → Prop)
    (frame : ∀ k s l r, P k s → P (k + 1) (chainFrame c g adj s l r).1) {n k : Nat} {s : State} (h : P k s)
    {words : List F64} (hw : words.length = 2 * n) : P (k + n) (runFrames c g adj s words).1 := by
  induction words using List.twoStepInduction generalizing s n k with
  | nil =>
    obtain rfl : n = 0 := by simpa using hw.symm
    exact h
  | singleton x => exact absurd hw (by simp; omega)
  | cons_cons l r rest ih =>
    obtain ⟨m, rfl⟩ : ∃ m, n = m + 1 := ⟨n - 1, by simp at hw; omega⟩
    have := ih (n := m) (frame k s l r h) (by simp at hw; omega)
    rwa [show k + (m + 1) = k + 1 + m by omega]

/-- A block puts out as many words as it takes in. -/
theorem runFrames_length (c : Config) (g : Gates) (adj : Stereo Int) (s : State) {n : Nat} {words : List F64}
    (hw : words.length = 2 * n) : (runFrames c g adj s words).2.length = 2 * n := by
  induction words using List.twoStepInduction generalizing s n with
  | nil => simpa using hw
  | singleton x => exact absurd hw (by simp; omega)
  | cons_cons l r rest ih =>
    have := ih (chainFrame c g adj s l r).1 (n := n - 1) (by simp at hw; omega)
    simp [runFrames_cons, this] at hw ⊢
    omega

/-- A block cut in two runs as its two parts one after the other. -/
theorem runFrames_append (c : Config) (g : Gates) (adj : Stereo Int) (s : State) {n : Nat} {a : List F64}
    (ha : a.length = 2 * n) (b : List F64) :
    runFrames c g adj s (a ++ b) =
      ((runFrames c g adj (runFrames c g adj s a).1 b).1,
        (runFrames c g adj s a).2 ++ (runFrames c g adj (runFrames c g adj s a).1 b).2) := by
  induction a using List.twoStepInduction generalizing s n with
  | nil => simp
  | singleton x => exact absurd ha (by simp; omega)
  | cons_cons l r rest ih =>
    have := ih (chainFrame c g adj s l r).1 (n := n - 1) (by simp at ha; omega)
    simp [runFrames_cons, this]

/-- With no stage running a frame passes bit for bit (R206). -/
theorem chainFrame_off (c : Config) (adj : Stereo Int) (s : State) (l r : F64) :
    chainFrame c ⟨false, false, false, false⟩ adj s l r = (s, l, r) := rfl

/-! ### The registers no frame writes -/

/-- The registers and the port that PROCESS leaves alone (R205): all but the four effects. -/
structure SameGlobals (s t : State) : Prop where
  configured : t.configured = s.configured
  rate : t.rate = s.rate
  enc : t.enc = s.enc
  masterEn : t.masterEn = s.masterEn
  fir : t.fir = s.fir
  inbox : t.inbox = s.inbox
  sin : t.sin = s.sin

theorem SameGlobals.refl (s : State) : SameGlobals s s := ⟨rfl, rfl, rfl, rfl, rfl, rfl, rfl⟩

theorem chainFrame_globals (c : Config) (g : Gates) (adj : Stereo Int) {s t : State} (h : SameGlobals s t) (l r : F64) :
    SameGlobals s (chainFrame c g adj t l r).1 := by
  obtain ⟨_, _, _, _, _, _, e⟩ := chainFrame_state c g adj t l r
  rw [e]
  exact ⟨h.configured, h.rate, h.enc, h.masterEn, h.fir, h.inbox, h.sin⟩

theorem runFrames_globals (c : Config) (g : Gates) (adj : Stereo Int) (s : State) (words : List F64) :
    SameGlobals s (runFrames c g adj s words).1 :=
  runFrames_keeps (SameGlobals s) (fun _ l r h => chainFrame_globals c g adj h l r) (SameGlobals.refl s) words

theorem blockStep_globals (c : Config) (g : Gates) (n : Nat) (s : State) : SameGlobals s (blockStep c g n s).1 := by
  unfold blockStep
  split
  · exact ⟨rfl, rfl, rfl, rfl, rfl, rfl, rfl⟩
  · exact SameGlobals.refl s

/-- All the block step can do: the compressor's registers, when it runs. -/
theorem blockStep_state (c : Config) (g : Gates) (n : Nat) (s : State) :
    (blockStep c g n s).1 = { s with comp := if g.comp then (compBlock c s.rate n s.sin s.comp).1 else s.comp } := by
  unfold blockStep; split <;> rfl

/-! ### PROCESS -/

/-- All PROCESS can answer: a refusal before the first CONFIGURE, a block too long, or the block carried out. -/
theorem processWith_next {c : Config} {n : BitVec 64} {s t : State} (h : processWith c n s = .next t) :
    (s.configured = false ∧ t = reply s eNotConfigured 0#64 none) ∨
    (s.configured = true ∧ exceeds c.blockMax n.toNat = true ∧ t = reply s eParamRange 0#64 none) ∨
    (s.configured = true ∧ exceeds c.blockMax n.toNat = false ∧ processFault n.toNat s = none ∧
      t = reply (runBlock c n.toNat s).1 statusOk (activeResult (runBlock c n.toNat s).1)
        (some (runBlock c n.toNat s).2)) := by
  unfold processWith at h
  cases hc : s.configured
  · exact .inl ⟨rfl, raise_next (by simpa [hc] using h)⟩
  · cases he : exceeds c.blockMax n.toNat
    · cases hf : processFault n.toNat s with
      | none => exact .inr (.inr ⟨rfl, rfl, rfl, by simpa [hc, he, hf] using h.symm⟩)
      | some f => simp [hc, he, hf] at h
    · exact .inr (.inl ⟨rfl, rfl, raise_next (by simpa [hc, he] using h)⟩)

/-- The machine's `BLOCK_MAX` is not fixed (log 8): no block is too long for it. -/
@[simp] theorem exceeds_cfg_blockMax (n : Int) : exceeds cfg.blockMax n = false := rfl

/-- When PROCESS does not stop: its input block fits, its delay cursors are in bounds if the virtualizer runs a frame,
and no refresh divides by zero. -/
theorem processFault_none {n : Nat} {s : State} :
    processFault n s = none ↔
      s.sin.length = 2 * n ∧
      (s.virt.en = true → 0 < n → dlInBounds s.virt.dly.l = true ∧ dlInBounds s.virt.dly.r = true) ∧
      (s.eq.en = true → s.eq.interval = 0#32 → n ≤ s.eq.next.toNat) := by
  unfold processFault
  split_ifs with h1 h2 h3
  · simp [h1]
  · simp only [Bool.and_eq_true, decide_eq_true_eq, Bool.not_eq_true', Bool.and_eq_false_iff] at h2
    simp only [false_iff]
    rintro ⟨_, hv, _⟩
    have := hv h2.1.1 h2.1.2
    rcases h2.2 with h | h <;> simp_all
  · simp only [Bool.and_eq_true, decide_eq_true_eq] at h3
    simp only [false_iff]
    rintro ⟨_, _, he⟩
    exact absurd (he h3.1.1 h3.1.2) (by omega)
  · simp only [true_iff]
    refine ⟨not_not.1 h1, fun hv hn => ?_, fun he hi => ?_⟩
    · by_contra hb
      exact h2 (by simp [hv, hn]; rw [← Bool.and_eq_false_iff]; simpa using hb)
    · by_contra hb
      exact h3 (by simp [he, hi]; omega)

end Sys2Proof.Machine
end

