-- ==== Sys2Proof/Laws/Constants.lean ====
section
/-! SUPPORT. The values of the constants that are computed from the record `dspm` (R8), so that no proof evaluates them
again, and the reset values of the machine at hand. -/

namespace Sys2Proof.Machine

/-! ### Integers -/

theorem fadeMax_eq : fadeMax = 100 := rfl

theorem strengthMax_eq : strengthMax = 1000 := rfl

theorem virtWideThresh_eq : virtWideThresh = 500 := rfl

theorem eqGainMin_eq : eqGainMin = -1000 := rfl

theorem eqGainMax_eq : eqGainMax = 1000 := rfl

theorem compUnityShift_eq : compUnityShift = 24 := rfl

theorem compAttackShift_eq : compAttackShift = 4 := rfl

theorem compUnity_eq : compUnity = 0x1000000#64 := rfl

/-! ### Words -/

theorem compUnityF_eq : compUnityF = ⟨0x4170000000000000#64⟩ := by decide +kernel

theorem compDbOffset_eq : compDbOffset = ⟨0x402A000000000000#64⟩ := by decide +kernel

theorem compWindowDepth_eq : compWindowDepth = ⟨0x4049000000000000#64⟩ := by decide +kernel

theorem fadeMaxF_eq : fadeMaxF = ⟨0x4059000000000000#64⟩ := by decide +kernel

theorem strengthMaxF_eq : strengthMaxF = ⟨0x408F400000000000#64⟩ := by decide +kernel

theorem virtAttSpanDb_eq : virtAttSpanDb = ⟨0x4024000000000000#64⟩ := by decide +kernel

theorem virtUnityF_eq : virtUnityF = ⟨0x41F0000000000000#64⟩ := by decide +kernel

theorem eqDecayStep_eq : eqDecayStep = ⟨0x3FB999999999999A#64⟩ := by decide +kernel

theorem eqLoudSpan_eq : eqLoudSpan = ⟨0x4054000000000000#64⟩ := by decide +kernel

theorem eqCorner_zero : eqCorner 0 = ⟨0x403F400000000000#64⟩ := by decide +kernel

theorem eqCorner_one : eqCorner 1 = ⟨0x405F400000000000#64⟩ := by decide +kernel

theorem eqCorner_two : eqCorner 2 = ⟨0x407F400000000000#64⟩ := by decide +kernel

theorem eqCorner_three : eqCorner 3 = ⟨0x409F400000000000#64⟩ := by decide +kernel

theorem eqCorner_four : eqCorner 4 = ⟨0x40BF400000000000#64⟩ := by decide +kernel

/-! ### The reset values of the machine at hand -/

@[simp] theorem cfg_rst : cfg.rst = rstDefaults := rfl

/-- `BASS_Q` at the default strength (R31). -/
theorem bassQOf_zero : bassQOf 0#64 = ⟨0x3FE0000000000000#64⟩ := by decide +kernel

/-- `VIRT_LEVEL` at strength 0 (R191). -/
@[simp] theorem virtLevelOf_zero (c : Config) : virtLevelOf c 0#64 = 0#64 := rfl

end Sys2Proof.Machine
end

