-- ==== Sys2Proof/Laws/Commands.lean ====
section
/-! SUPPORT. Each command as the shared operation it is: the equations the provers rewrite with, and all a command can
answer. -/

namespace Sys2Proof.Machine

/-! ### SETP -/

theorem exec_setpMasterEn (opd : BitVec 64) (s : State) :
    exec (.setpMasterEn opd) s =
      setKnob (boolOperand opd) (fun v s => { s with masterEn := v }) s := rfl

theorem exec_setpCompEn (opd : BitVec 64) (s : State) :
    exec (.setpCompEn opd) s =
      setKnob (boolOperand opd) (fun v s => { s with comp := { s.comp with en := v } }) s := rfl

theorem exec_setpCompRatio (opd : BitVec 64) (s : State) :
    exec (.setpCompRatio opd) s =
      setKnob (f64Operand legalRatio opd) (fun v s => { s with comp := { s.comp with ratio := v } }) s := rfl

theorem exec_setpBassEn (opd : BitVec 64) (s : State) :
    exec (.setpBassEn opd) s =
      setKnob (boolOperand opd) (fun v s => { s with bass := { s.bass with en := v } }) s := rfl

theorem exec_setpBassStrength (opd : BitVec 64) (s : State) :
    exec (.setpBassStrength opd) s =
      setKnob (i64Operand 0 strengthMax opd) (setBassStrength cfg) s := rfl

theorem exec_setpBassFreq (opd : BitVec 64) (s : State) :
    exec (.setpBassFreq opd) s =
      setKnob (f64Operand legalFreq opd) (setBassFreq cfg) s := rfl

theorem exec_setpEqEn (opd : BitVec 64) (s : State) :
    exec (.setpEqEn opd) s =
      setKnob (boolOperand opd) (fun v s => { s with eq := { s.eq with en := v } }) s := rfl

theorem exec_setpEqBand0 (opd : BitVec 64) (s : State) :
    exec (.setpEqBand0 opd) s =
      setKnob (i64Operand eqGainMin eqGainMax opd) (fun v s => { s with eq := { s.eq with band := { s.eq.band with b0 := v } } }) s := rfl

theorem exec_setpEqBand1 (opd : BitVec 64) (s : State) :
    exec (.setpEqBand1 opd) s =
      setKnob (i64Operand eqGainMin eqGainMax opd) (fun v s => { s with eq := { s.eq with band := { s.eq.band with b1 := v } } }) s := rfl

theorem exec_setpEqBand2 (opd : BitVec 64) (s : State) :
    exec (.setpEqBand2 opd) s =
      setKnob (i64Operand eqGainMin eqGainMax opd) (fun v s => { s with eq := { s.eq with band := { s.eq.band with b2 := v } } }) s := rfl

theorem exec_setpEqBand3 (opd : BitVec 64) (s : State) :
    exec (.setpEqBand3 opd) s =
      setKnob (i64Operand eqGainMin eqGainMax opd) (fun v s => { s with eq := { s.eq with band := { s.eq.band with b3 := v } } }) s := rfl

theorem exec_setpEqBand4 (opd : BitVec 64) (s : State) :
    exec (.setpEqBand4 opd) s =
      setKnob (i64Operand eqGainMin eqGainMax opd) (fun v s => { s with eq := { s.eq with band := { s.eq.band with b4 := v } } }) s := rfl

theorem exec_setpEqBand5 (opd : BitVec 64) (s : State) :
    exec (.setpEqBand5 opd) s =
      setKnob (i64Operand eqGainMin eqGainMax opd) (fun v s => { s with eq := { s.eq with band := { s.eq.band with b5 := v } } }) s := rfl

theorem exec_setpEqLoudEn (opd : BitVec 64) (s : State) :
    exec (.setpEqLoudEn opd) s =
      setKnob (boolOperand opd) (fun v s => { s with eq := { s.eq with loudEn := v } }) s := rfl

theorem exec_setpEqLoudRef (opd : BitVec 64) (s : State) :
    exec (.setpEqLoudRef opd) s =
      setKnob (f64Operand legalLoudRef opd) (fun v s => { s with eq := { s.eq with loudRef := v } }) s := rfl

theorem exec_setpVirtEn (opd : BitVec 64) (s : State) :
    exec (.setpVirtEn opd) s =
      setKnob (boolOperand opd) (fun v s => { s with virt := { s.virt with en := v } }) s := rfl

theorem exec_setpVirtStrength (opd : BitVec 64) (s : State) :
    exec (.setpVirtStrength opd) s =
      setKnob (i64Operand 0 strengthMax opd) (setVirtStrength cfg) s := rfl

/-! ### GETP -/

theorem exec_getpMasterEn (s : State) : exec .getpMasterEn s = complete (encodeBool s.masterEn) s := rfl

theorem exec_getpCompEn (s : State) : exec .getpCompEn s = complete (encodeBool s.comp.en) s := rfl

theorem exec_getpCompRatio (s : State) : exec .getpCompRatio s = complete (encodeF64 s.comp.ratio) s := rfl

theorem exec_getpBassEn (s : State) : exec .getpBassEn s = complete (encodeBool s.bass.en) s := rfl

theorem exec_getpBassStrength (s : State) : exec .getpBassStrength s = complete (encodeI64 s.bass.strength) s := rfl

theorem exec_getpBassFreq (s : State) : exec .getpBassFreq s = complete (encodeF64 s.bass.freq) s := rfl

theorem exec_getpEqEn (s : State) : exec .getpEqEn s = complete (encodeBool s.eq.en) s := rfl

theorem exec_getpEqBand0 (s : State) : exec .getpEqBand0 s = complete (encodeI64 s.eq.band.b0) s := rfl

theorem exec_getpEqBand1 (s : State) : exec .getpEqBand1 s = complete (encodeI64 s.eq.band.b1) s := rfl

theorem exec_getpEqBand2 (s : State) : exec .getpEqBand2 s = complete (encodeI64 s.eq.band.b2) s := rfl

theorem exec_getpEqBand3 (s : State) : exec .getpEqBand3 s = complete (encodeI64 s.eq.band.b3) s := rfl

theorem exec_getpEqBand4 (s : State) : exec .getpEqBand4 s = complete (encodeI64 s.eq.band.b4) s := rfl

theorem exec_getpEqBand5 (s : State) : exec .getpEqBand5 s = complete (encodeI64 s.eq.band.b5) s := rfl

theorem exec_getpEqLoudEn (s : State) : exec .getpEqLoudEn s = complete (encodeBool s.eq.loudEn) s := rfl

theorem exec_getpEqLoudRef (s : State) : exec .getpEqLoudRef s = complete (encodeF64 s.eq.loudRef) s := rfl

theorem exec_getpVirtEn (s : State) : exec .getpVirtEn s = complete (encodeBool s.virt.en) s := rfl

theorem exec_getpVirtStrength (s : State) : exec .getpVirtStrength s = complete (encodeI64 s.virt.strength) s := rfl

/-! ### CONFIGURE and PROCESS -/

theorem exec_configure (ch encsel : BitVec 8) (opd : BitVec 64) (s : State) :
    exec (.configure ch encsel opd) s = configureWith cfg ch encsel opd s := rfl

theorem exec_process (n : BitVec 64) (s : State) : exec (.process n) s = processWith cfg n s := rfl

/-- All CONFIGURE can answer: the code of its first failing check, or its effects. -/
theorem configureWith_next {c : Config} {ch encsel : BitVec 8} {opd : BitVec 64} {s t : State}
    (h : configureWith c ch encsel opd s = .next t) :
    (∃ e, configureError c ch encsel ⟨opd⟩ = some e ∧ t = reply s e 0#64 none) ∨
    (configureError c ch encsel ⟨opd⟩ = none ∧
      t = reply (configureEffects c encsel ⟨opd⟩ s) statusOk 0#64 none) := by
  unfold configureWith at h
  split at h
  · exact .inl ⟨_, ‹_›, raise_next h⟩
  · exact .inr ⟨‹_›, complete_next h⟩

/-- The codes of CONFIGURE's checks. -/
theorem configureError_code {c : Config} {ch encsel : BitVec 8} {rate : F64} {e : BitVec 8}
    (h : configureError c ch encsel rate = some e) : e = eBadChannels ∨ e = eBadRate ∨ e = eParamRange := by
  unfold configureError at h
  split_ifs at h <;> simp_all

/-- What CONFIGURE's checks ask for. -/
theorem configureError_none {c : Config} {ch encsel : BitVec 8} {rate : F64} :
    configureError c ch encsel rate = none ↔
      ch = channelCount ∧ legalRate rate = true ∧ encsel ≤ encMax ∧
        exceeds c.dlyMax (delayLength rate virtDelayA) = false := by
  unfold configureError
  split_ifs <;> simp_all [BitVec.not_lt]

end Sys2Proof.Machine
end

