-- ==== Sys2Proof/Laws/Compress.lean ====
section
/-! SUPPORT. The compressor's operations as exact arithmetic (43_compressor.md): the power accumulator, the analysis
channel by channel, the increment. -/

namespace Sys2Proof.Machine

/-- An accumulator after one more sample: the square of its truncation added, at most 2^64 − 1 (R142, R181). -/
theorem addSquare_eq (acc : BitVec 64) (x : F64) :
    addSquare acc x = BitVec.ofNat 64 (min (acc.toNat + (d2i x).natAbs ^ 2) (2 ^ 64 - 1)) := by
  have h : ((acc.toNat : Int) + d2i x * d2i x).toNat = acc.toNat + (d2i x).natAbs ^ 2 := by
    have e : d2i x * d2i x = ((d2i x).natAbs ^ 2 : Nat) := by rw [Nat.cast_pow, Int.natAbs_sq, sq]
    rw [e]; omega
  simp only [addSquare, satU, h]

/-- The analysis is one fold per channel over the frames: filter the sample, add its square (R142). -/
theorem compAnalyse_eq {words : List F64} {n : Nat} (h : words.length = 2 * n) (bp : Stereo Biquad)
    (acc : Stereo (BitVec 64)) :
    let channel (k : Nat) (start : Biquad × BitVec 64) : Biquad × BitVec 64 :=
      (List.range n).foldl
        (fun a i =>
          let p := bqProcess a.1 ((words[2 * i + k]?).getD posZero)
          (p.1, addSquare a.2 p.2))
        start
    let l := channel 0 (bp.l, acc.l)
    let r := channel 1 (bp.r, acc.r)
    compAnalyse bp acc words = (⟨l.1, r.1⟩, ⟨l.2, r.2⟩) := by
  induction words using List.twoStepInduction generalizing n bp acc with
  | nil =>
    obtain rfl : n = 0 := by simpa using h.symm
    rfl
  | singleton x => exact absurd h (by simp; omega)
  | cons_cons l r rest ih =>
    obtain ⟨m, rfl⟩ : ∃ m, n = m + 1 := ⟨n - 1, by simp at h; omega⟩
    rw [compAnalyse, ih (n := m) (by simp at h; omega)]
    simp only [List.range_succ_eq_map, List.foldl_cons, List.foldl_map]
    simp [Nat.mul_succ, Nat.add_right_comm _ 2]

/-- The shifts of R149 and R150 are divisions that round down. -/
theorem slew_eq (user cur : BitVec 64) (factor : Int) (rate : F64) (n : Nat) :
    slew user cur factor rate n =
      let a := (user.toInt * factor / 2 ^ 24 - cur.toInt).tdiv (slewDivisor rate n)
      if 0 < a then a / 2 ^ 4 else a := by
  unfold slew wantedGain
  simp only [compUnityShift_eq, compAttackShift_eq, Int.shiftRight_eq_div_pow]
  rfl

end Sys2Proof.Machine
end

