-- ==== Sys2Proof/Laws/Invariant.lean ====
section
/-! SUPPORT. Each effect's registers stay in order (Safety.lean) through every operation that writes them. -/

namespace Sys2Proof.Machine

/-! ### Fades -/

theorem fadeStep_le {en : Bool} {fade : BitVec 8} (h : fade.toNat ≤ fadeMax) : (fadeStep en fade).toNat ≤ fadeMax := by
  rw [fadeMax_eq] at *
  unfold fadeStep
  rw [fadeMax_eq]
  split_ifs <;> first | exact h | bv_omega

theorem eqFadeStep_le {en : Bool} {fade : BitVec 8} (h : fade.toNat ≤ fadeMax) :
    (eqFadeStep en fade).toNat ≤ fadeMax := by
  rw [fadeMax_eq] at *
  unfold eqFadeStep
  rw [fadeMax_eq]
  split_ifs with h1
  · simp at h1; bv_omega
  · exact h

/-- The equalizer's fade never falls (R177). -/
theorem eqFadeStep_ge (en : Bool) (fade : BitVec 8) : fade.toNat ≤ (eqFadeStep en fade).toNat := by
  unfold eqFadeStep
  rw [fadeMax_eq]
  split_ifs with h1
  · simp at h1; bv_omega
  · exact le_refl _

/-! ### Compressor -/

/-- A filter that is settled with no call left. -/
def AtRest (b : Biquad) : Prop := BiquadSettled b ∧ b.rem = 0#32

theorem bqProcess_atRest {b : Biquad} (h : AtRest b) (x : F64) : AtRest (bqProcess b x).1 :=
  ⟨bqProcess_settled h.1 x, by rw [bqProcess_rem]; simp [h.2]⟩

theorem designAndClear_atRest (c : Config) (kind : BqKind) (f rate p dBGain overallDb : F64) (b : Biquad) :
    AtRest (designAndClear c kind f rate p dBGain overallDb b) := by
  rw [designAndClear_eq]; exact ⟨fun _ => rfl, rfl⟩

theorem compAnalyse_atRest {bp : Stereo Biquad} (hl : AtRest bp.l) (hr : AtRest bp.r) (acc : Stereo (BitVec 64))
    (words : List F64) : AtRest (compAnalyse bp acc words).1.l ∧ AtRest (compAnalyse bp acc words).1.r := by
  induction words using List.twoStepInduction generalizing bp acc with
  | nil => exact ⟨hl, hr⟩
  | singleton x => exact ⟨hl, hr⟩
  | cons_cons l r rest ih => exact ih (bqProcess_atRest hl l) (bqProcess_atRest hr r) _

theorem compFrameNext_ok {k : Compressor} (h : CompressorOk k) (adj : Stereo Int) : CompressorOk (compFrameNext adj k) :=
  ⟨h.fade, h.ratio, h.user, h.bpL, h.bpR⟩

theorem compBlock_ok {k : Compressor} (h : CompressorOk k) (c : Config) (rate : F64) (n : Nat) (words : List F64) :
    CompressorOk (compBlock c rate n words k).1 :=
  have hb := compAnalyse_atRest h.bpL h.bpR ⟨0#64, 0#64⟩ words
  ⟨fadeStep_le h.fade, h.ratio, h.user, hb.1, hb.2⟩

theorem configureComp_ok {k : Compressor} (h : CompressorOk k) (c : Config) (rate : F64) :
    CompressorOk (configureComp c rate k) :=
  ⟨h.fade, h.ratio, h.user, designAndClear_atRest _ _ _ _ _ _ _ _, designAndClear_atRest _ _ _ _ _ _ _ _⟩

/-! ### Bass boost -/

theorem bassFrame_ok {b : BassBoost} (h : BassOk b) (l r : F64) : BassOk (bassFrame b l r).1 :=
  ⟨h.strength, h.freq, h.q, bqProcess_settled h.lp _⟩

theorem bassConfigure_ok {b : BassBoost} (hs : 0 ≤ b.strength.toInt ∧ b.strength.toInt ≤ strengthMax)
    (hf : isFinite b.freq = true ∧ legalFreq b.freq = true) (hq : b.q = bassQOf b.strength) (c : Config)
    (interval : BitVec 32) (rate : F64) : BassOk (bassConfigure c interval rate b) :=
  ⟨hs, hf, hq, bqInstall_settled _ _ _⟩

theorem bassRetune_ok {b : BassBoost} (h : BassOk b) (c : Config) (configured : Bool) (rate : F64) :
    BassOk (bassRetune c configured rate b) := by
  unfold bassRetune
  split
  · exact bassConfigure_ok h.strength h.freq h.q c _ rate
  · exact h

theorem configureBass_ok {b : BassBoost} (h : BassOk b) (c : Config) (rate : F64) : BassOk (configureBass c rate b) :=
  ⟨h.strength, h.freq, h.q, bqClear_settled (bqInstall_settled _ _ _)⟩

/-! ### Equalizer -/

/-- The refresh that may be due leaves at least one frame to the next one, and the ramps end with it. -/
theorem eqDue_ok {e : Equalizer} (h : EqualizerOk e) (c : Config) (rate : F64) :
    EqualizerOk (eqDue c rate e) ∧ 1 ≤ (eqDue c rate e).next.toNat := by
  have hi := h.interval
  unfold eqDue
  split
  · refine ⟨⟨h.band0, h.band1, h.band2, h.band3, h.band4, h.band5, h.loudRef, eqFadeStep_le h.fade, hi, le_refl _,
      refreshShelves_ramp _ _ _ _ _, refreshShelves_ramp _ _ _ _ _⟩, hi⟩
  · refine ⟨h, ?_⟩
    by_contra hn
    exact ‹¬_› (BitVec.eq_of_toNat_eq (by simp; omega))

/-- A counter that is not zero counts down by one. -/
theorem satU_pred {n : BitVec 32} (h : 1 ≤ n.toNat) : satU 32 ((n.toNat : Int) - 1) = n - 1#32 := by
  have := n.isLt
  apply BitVec.eq_of_toNat_eq
  simp only [satU]
  rw [show ((n.toNat : Int) - 1).toNat = n.toNat - 1 by omega]
  simp
  omega

theorem eqFilter_ok {e : Equalizer} (h : EqualizerOk e) (hn : 1 ≤ e.next.toNat) (l r : F64) :
    EqualizerOk (eqFilter e l r).1 := by
  have hne : e.next ≠ 0#32 := by rintro h0; simp [h0] at hn
  have hl := runShelves_ramp h.left l
  have hr := runShelves_ramp h.right r
  rw [if_neg hne, ← satU_pred hn] at hl hr
  refine ⟨h.band0, h.band1, h.band2, h.band3, h.band4, h.band5, h.loudRef, h.fade, h.interval, ?_, hl, hr⟩
  show (satU 32 ((e.next.toNat : Int) - 1)).toNat ≤ e.interval.toNat
  have := h.next
  rw [satU_pred hn]
  bv_omega

theorem eqFrame_ok {e : Equalizer} (h : EqualizerOk e) (c : Config) (rate l r : F64) :
    EqualizerOk (eqFrame c rate e l r).1 :=
  eqFilter_ok (eqDue_ok h c rate).1 (eqDue_ok h c rate).2 l r

theorem eqIntervalOf_pos (rate : F64) : 1 ≤ (eqIntervalOf rate).toNat := by
  unfold eqIntervalOf satU
  simp
  omega

theorem configureEq_ok {e : Equalizer} (h : EqualizerOk e) (c : Config) (rate : F64) :
    EqualizerOk (configureEq c rate e) :=
  ⟨h.band0, h.band1, h.band2, h.band3, h.band4, h.band5, h.loudRef, h.fade, eqIntervalOf_pos rate, Nat.zero_le _,
    clearShelves_ramp (refreshShelves_ramp _ _ _ _ _), clearShelves_ramp (refreshShelves_ramp _ _ _ _ _)⟩

/-! ### Virtualizer -/

theorem virtFrame_ok {v : Virtualizer} (h : VirtualizerOk v) (c : Config) (l r : F64) :
    VirtualizerOk (virtFrame c v l r).1 :=
  ⟨h.strength, h.deep, h.wide, h.level, dlNext_ok h.dlyL _, dlNext_ok h.dlyR _, bqProcess_atRest h.loc _⟩

theorem configureVirt_ok {v : Virtualizer} (h : VirtualizerOk v) (c : Config) (rate : F64) :
    VirtualizerOk (configureVirt c rate v) :=
  ⟨h.strength, h.deep, h.wide, h.level, dlConfigure_ok _ _ v.dly.l, dlConfigure_ok _ _ v.dly.r,
    designAndClear_atRest _ _ _ _ _ _ _ _⟩

theorem virtDerive_ok {v : Virtualizer} (hs : 0 ≤ v.strength.toInt ∧ v.strength.toInt ≤ strengthMax)
    (hl : DelayOk v.dly.l) (hr : DelayOk v.dly.r) (hloc : BiquadSettled v.loc ∧ v.loc.rem = 0#32) :
    VirtualizerOk (virtDerive cfg v) :=
  ⟨hs, rfl, rfl, rfl, hl, hr, hloc⟩

end Sys2Proof.Machine
end

