-- ==== Sys2Proof/Laws/PerInstr.lean ====
section
/-! SUPPORT. Per-instruction lemmas about the instruction as syntax.  The family `EncodesItsRow`: the command word that
`encode` writes carries its row's fixed bits of the opcode table (30_encoding.md R91, `w & mask = match`). -/

namespace Sys2Proof.Laws

/-- The fixed bits of a row of R91. -/
structure Row where
  mask : BitVec 32
  value : BitVec 32

/-- The row of R91 of each constructor, copied from the table. -/
def rowOf : Instr → Row
  | .configure _ _ _ => ⟨0xFFFF0000#32, 0x01000000#32⟩
  | .process _ => ⟨0xFFFFFFFF#32, 0x04000000#32⟩
  | .setpMasterEn _ => ⟨0xFFFFFFFF#32, 0x02000000#32⟩
  | .setpCompEn _ => ⟨0xFFFFFFFF#32, 0x02100000#32⟩
  | .setpCompRatio _ => ⟨0xFFFFFFFF#32, 0x02110000#32⟩
  | .setpBassEn _ => ⟨0xFFFFFFFF#32, 0x02200000#32⟩
  | .setpBassStrength _ => ⟨0xFFFFFFFF#32, 0x02210000#32⟩
  | .setpBassFreq _ => ⟨0xFFFFFFFF#32, 0x02220000#32⟩
  | .setpEqEn _ => ⟨0xFFFFFFFF#32, 0x02300000#32⟩
  | .setpEqBand0 _ => ⟨0xFFFFFFFF#32, 0x02310000#32⟩
  | .setpEqBand1 _ => ⟨0xFFFFFFFF#32, 0x02320000#32⟩
  | .setpEqBand2 _ => ⟨0xFFFFFFFF#32, 0x02330000#32⟩
  | .setpEqBand3 _ => ⟨0xFFFFFFFF#32, 0x02340000#32⟩
  | .setpEqBand4 _ => ⟨0xFFFFFFFF#32, 0x02350000#32⟩
  | .setpEqBand5 _ => ⟨0xFFFFFFFF#32, 0x02360000#32⟩
  | .setpEqLoudEn _ => ⟨0xFFFFFFFF#32, 0x02370000#32⟩
  | .setpEqLoudRef _ => ⟨0xFFFFFFFF#32, 0x02380000#32⟩
  | .setpVirtEn _ => ⟨0xFFFFFFFF#32, 0x02400000#32⟩
  | .setpVirtStrength _ => ⟨0xFFFFFFFF#32, 0x02410000#32⟩
  | .getpMasterEn => ⟨0xFFFFFFFF#32, 0x03000000#32⟩
  | .getpCompEn => ⟨0xFFFFFFFF#32, 0x03100000#32⟩
  | .getpCompRatio => ⟨0xFFFFFFFF#32, 0x03110000#32⟩
  | .getpBassEn => ⟨0xFFFFFFFF#32, 0x03200000#32⟩
  | .getpBassStrength => ⟨0xFFFFFFFF#32, 0x03210000#32⟩
  | .getpBassFreq => ⟨0xFFFFFFFF#32, 0x03220000#32⟩
  | .getpEqEn => ⟨0xFFFFFFFF#32, 0x03300000#32⟩
  | .getpEqBand0 => ⟨0xFFFFFFFF#32, 0x03310000#32⟩
  | .getpEqBand1 => ⟨0xFFFFFFFF#32, 0x03320000#32⟩
  | .getpEqBand2 => ⟨0xFFFFFFFF#32, 0x03330000#32⟩
  | .getpEqBand3 => ⟨0xFFFFFFFF#32, 0x03340000#32⟩
  | .getpEqBand4 => ⟨0xFFFFFFFF#32, 0x03350000#32⟩
  | .getpEqBand5 => ⟨0xFFFFFFFF#32, 0x03360000#32⟩
  | .getpEqLoudEn => ⟨0xFFFFFFFF#32, 0x03370000#32⟩
  | .getpEqLoudRef => ⟨0xFFFFFFFF#32, 0x03380000#32⟩
  | .getpVirtEn => ⟨0xFFFFFFFF#32, 0x03400000#32⟩
  | .getpVirtStrength => ⟨0xFFFFFFFF#32, 0x03410000#32⟩

namespace EncodesItsRow

/-- The encoding of `i` selects the row of `i`. -/
def Statement (i : Instr) : Prop := (encode i).1 &&& (rowOf i).mask = (rowOf i).value

theorem configure (ch encsel : BitVec 8) (opd : BitVec 64) : Statement (.configure ch encsel opd) := by
  show packWord 0x01#8 0x00#8 (encsel ++ ch) &&& 0xFFFF0000#32 = 0x01000000#32
  unfold packWord
  ext k hk
  simp only [BitVec.getElem_and, BitVec.getElem_append]
  interval_cases k <;> simp

theorem process (n : BitVec 64) : Statement (.process n) := by
  simp only [Statement, encode, rowOf]; decide

theorem setpMasterEn (opd : BitVec 64) : Statement (.setpMasterEn opd) := by
  simp only [Statement, encode, rowOf]; decide

theorem setpCompEn (opd : BitVec 64) : Statement (.setpCompEn opd) := by
  simp only [Statement, encode, rowOf]; decide

theorem setpCompRatio (opd : BitVec 64) : Statement (.setpCompRatio opd) := by
  simp only [Statement, encode, rowOf]; decide

theorem setpBassEn (opd : BitVec 64) : Statement (.setpBassEn opd) := by
  simp only [Statement, encode, rowOf]; decide

theorem setpBassStrength (opd : BitVec 64) : Statement (.setpBassStrength opd) := by
  simp only [Statement, encode, rowOf]; decide

theorem setpBassFreq (opd : BitVec 64) : Statement (.setpBassFreq opd) := by
  simp only [Statement, encode, rowOf]; decide

theorem setpEqEn (opd : BitVec 64) : Statement (.setpEqEn opd) := by
  simp only [Statement, encode, rowOf]; decide

theorem setpEqBand0 (opd : BitVec 64) : Statement (.setpEqBand0 opd) := by
  simp only [Statement, encode, rowOf]; decide

theorem setpEqBand1 (opd : BitVec 64) : Statement (.setpEqBand1 opd) := by
  simp only [Statement, encode, rowOf]; decide

theorem setpEqBand2 (opd : BitVec 64) : Statement (.setpEqBand2 opd) := by
  simp only [Statement, encode, rowOf]; decide

theorem setpEqBand3 (opd : BitVec 64) : Statement (.setpEqBand3 opd) := by
  simp only [Statement, encode, rowOf]; decide

theorem setpEqBand4 (opd : BitVec 64) : Statement (.setpEqBand4 opd) := by
  simp only [Statement, encode, rowOf]; decide

theorem setpEqBand5 (opd : BitVec 64) : Statement (.setpEqBand5 opd) := by
  simp only [Statement, encode, rowOf]; decide

theorem setpEqLoudEn (opd : BitVec 64) : Statement (.setpEqLoudEn opd) := by
  simp only [Statement, encode, rowOf]; decide

theorem setpEqLoudRef (opd : BitVec 64) : Statement (.setpEqLoudRef opd) := by
  simp only [Statement, encode, rowOf]; decide

theorem setpVirtEn (opd : BitVec 64) : Statement (.setpVirtEn opd) := by
  simp only [Statement, encode, rowOf]; decide

theorem setpVirtStrength (opd : BitVec 64) : Statement (.setpVirtStrength opd) := by
  simp only [Statement, encode, rowOf]; decide

theorem getpMasterEn : Statement .getpMasterEn := by
  simp only [Statement, encode, rowOf]; decide

theorem getpCompEn : Statement .getpCompEn := by
  simp only [Statement, encode, rowOf]; decide

theorem getpCompRatio : Statement .getpCompRatio := by
  simp only [Statement, encode, rowOf]; decide

theorem getpBassEn : Statement .getpBassEn := by
  simp only [Statement, encode, rowOf]; decide

theorem getpBassStrength : Statement .getpBassStrength := by
  simp only [Statement, encode, rowOf]; decide

theorem getpBassFreq : Statement .getpBassFreq := by
  simp only [Statement, encode, rowOf]; decide

theorem getpEqEn : Statement .getpEqEn := by
  simp only [Statement, encode, rowOf]; decide

theorem getpEqBand0 : Statement .getpEqBand0 := by
  simp only [Statement, encode, rowOf]; decide

theorem getpEqBand1 : Statement .getpEqBand1 := by
  simp only [Statement, encode, rowOf]; decide

theorem getpEqBand2 : Statement .getpEqBand2 := by
  simp only [Statement, encode, rowOf]; decide

theorem getpEqBand3 : Statement .getpEqBand3 := by
  simp only [Statement, encode, rowOf]; decide

theorem getpEqBand4 : Statement .getpEqBand4 := by
  simp only [Statement, encode, rowOf]; decide

theorem getpEqBand5 : Statement .getpEqBand5 := by
  simp only [Statement, encode, rowOf]; decide

theorem getpEqLoudEn : Statement .getpEqLoudEn := by
  simp only [Statement, encode, rowOf]; decide

theorem getpEqLoudRef : Statement .getpEqLoudRef := by
  simp only [Statement, encode, rowOf]; decide

theorem getpVirtEn : Statement .getpVirtEn := by
  simp only [Statement, encode, rowOf]; decide

theorem getpVirtStrength : Statement .getpVirtStrength := by
  simp only [Statement, encode, rowOf]; decide

end EncodesItsRow

end Sys2Proof.Laws
end

