-- ==== Sys2Proof/Laws/Reals.lean ====
section
/-! SUPPORT. Finite words as real numbers: the value of a magnitude, its order, and the order of words. -/

namespace Sys2Proof.Machine

/-- The real number of a magnitude's bits. -/
noncomputable def magReal (m : Nat) : ℝ :=
  ((if m / 2 ^ 52 = 0 then m else 2 ^ 52 + m % 2 ^ 52 : Nat) : ℝ) * (2 : ℝ) ^ (((max (m / 2 ^ 52) 1 : Nat) : ℤ) - 1075)

theorem toReal_eq (x : F64) : toReal x = if fsign x then -magReal (fmag x) else magReal (fmag x) := by
  unfold toReal fsigned magReal fexpo
  cases fsign x <;> simp only [Bool.false_eq_true, if_true, if_false, Int.cast_neg, Int.cast_natCast, neg_mul, fsig]

theorem magReal_zero : magReal 0 = 0 := by simp [magReal]

/-- Magnitudes are ordered as their bits. -/
theorem magReal_strictMono : StrictMono magReal := by
  refine strictMono_nat_of_lt_succ fun m => ?_
  unfold magReal
  by_cases hE : (m + 1) / 2 ^ 52 = m / 2 ^ 52
  · rw [hE]
    refine mul_lt_mul_of_pos_right ?_ (by positivity)
    have : (if m / 2 ^ 52 = 0 then m else 2 ^ 52 + m % 2 ^ 52 : Nat) <
        (if m / 2 ^ 52 = 0 then m + 1 else 2 ^ 52 + (m + 1) % 2 ^ 52 : Nat) := by
      split_ifs <;> omega
    exact_mod_cast this
  · have hE' : (m + 1) / 2 ^ 52 = m / 2 ^ 52 + 1 := by omega
    have hm : (m + 1) % 2 ^ 52 = 0 := by omega
    rw [hE', hm, if_neg (Nat.succ_ne_zero _)]
    by_cases h0 : m / 2 ^ 52 = 0
    · rw [if_pos h0, h0]
      have : (m : ℝ) < 2 ^ 52 := by exact_mod_cast (by omega : m < 2 ^ 52)
      norm_num at this ⊢
      exact this
    · rw [if_neg h0, max_eq_left (by omega), max_eq_left (by omega)]
      have hs : (2 : ℝ) ^ (((m / 2 ^ 52 + 1 : Nat) : ℤ) - 1075) = 2 * (2 : ℝ) ^ (((m / 2 ^ 52 : Nat) : ℤ) - 1075) := by
        rw [← zpow_one_add₀ (by norm_num)]
        congr 1
        push_cast
        ring
      have hp : (0 : ℝ) < (2 : ℝ) ^ (((m / 2 ^ 52 : Nat) : ℤ) - 1075) := by positivity
      have : ((2 ^ 52 + m % 2 ^ 52 : Nat) : ℝ) < 2 ^ 53 := by
        exact_mod_cast (by omega : 2 ^ 52 + m % 2 ^ 52 < 2 ^ 53)
      rw [hs, ← mul_assoc]
      refine mul_lt_mul_of_pos_right ?_ hp
      push_cast at this ⊢
      linarith

theorem magReal_lt {m n : Nat} : magReal m < magReal n ↔ m < n := magReal_strictMono.lt_iff_lt

theorem magReal_nonneg (m : Nat) : 0 ≤ magReal m := by
  rw [← magReal_zero]; exact magReal_strictMono.monotone (Nat.zero_le m)

theorem magReal_pos {m : Nat} : 0 < magReal m ↔ 0 < m := by rw [← magReal_zero, magReal_lt]

/-- The key of the comparisons orders words as the real numbers they stand for. -/
theorem fkey_lt (x y : F64) : fkey x < fkey y ↔ toReal x < toReal y := by
  rw [toReal_eq, toReal_eq]
  unfold fkey
  have hx := magReal_nonneg (fmag x)
  have hy := magReal_nonneg (fmag y)
  have px := magReal_pos (m := fmag x)
  have py := magReal_pos (m := fmag y)
  have hxy := magReal_lt (m := fmag x) (n := fmag y)
  have hyx := magReal_lt (m := fmag y) (n := fmag x)
  split_ifs
  · exact ⟨fun h => by have := hyx.2 (by omega); linarith, fun h => by have := hyx.1 (by linarith); omega⟩
  · refine ⟨fun h => ?_, fun h => ?_⟩
    · rcases Nat.eq_zero_or_pos (fmag x) with h0 | h0
      · have := py.2 (by omega); linarith
      · have := px.2 h0; linarith
    · by_contra hc
      have h1 : fmag x = 0 := by omega
      have h2 : fmag y = 0 := by omega
      rw [h1, h2, magReal_zero] at h
      linarith
  · exact ⟨fun h => by omega, fun h => by linarith⟩
  · exact ⟨fun h => hxy.2 (by omega), fun h => by have := hxy.1 h; omega⟩

theorem fkey_le (x y : F64) : fkey x ≤ fkey y ↔ toReal x ≤ toReal y := by rw [← not_lt, ← not_lt, fkey_lt]

theorem fkey_eq (x y : F64) : fkey x = fkey y ↔ toReal x = toReal y := by
  rw [le_antisymm_iff, le_antisymm_iff, fkey_le, fkey_le]

/-- A word is finite, a NaN or an infinity, and only one of them. -/
theorem isFinite_eq (x : F64) : isFinite x = (!isNaN x && !isInf x) := by
  rw [Bool.eq_iff_iff]
  simp only [isNaN, isInf, isFinite, decide_eq_true_eq, Bool.and_eq_true, Bool.not_eq_true', decide_eq_false_iff_not]
  omega

theorem isNaN_of_isFinite {x : F64} (h : isFinite x = true) : isNaN x = false := by
  rw [isFinite_eq] at h
  simp_all

end Sys2Proof.Machine
end

