-- ==== Sys2Proof/Machine/Codec.lean ====
section
/-! DEFINITION. The codec's boundary contract (20_memory.md R70 to R73): how host samples of the three encodings become
internal samples.  The codec is outside the block (R5): nothing of the machine calls this file (log 17).  The way out
is left to the codec by R71 to R73, but for the scaling R72 names. -/

namespace Sys2Proof.Machine

/-- `ENC = 0` (R71): a signed 16-bit sample times 256.0. -/
def codecDecodeS16 (v : BitVec 16) : F64 := fmul (i2d v.toInt) codecS16Scale

/-- A binary32 word widened to binary64, exactly (R72). -/
def widenF32 (v : BitVec 32) : F64 :=
  let mag : Nat := v.toNat % 2 ^ 31
  let ex : Nat := mag / 2 ^ 23
  let frac : Nat := mag % 2 ^ 23
  if ex = 255 then ofParts v.msb (if frac = 0 then infMag else infMag + 2 ^ 51 + frac % 2 ^ 22 * 2 ^ 29)
  else if ex = 0 then roundPack v.msb frac (-149)
  else roundPack v.msb (2 ^ 23 + frac) ((ex : Int) - 150)

/-- `ENC = 1` (R72): a binary32 sample, widened, times 1000000.0. -/
def codecDecodeF32 (v : BitVec 32) : F64 := fmul (widenF32 v) codecFloatScale

/-- The inverse scaling R72 calls the natural reading (D15), before any narrowing. -/
def codecUnscaleF32 (y : F64) : F64 := fdiv y codecFloatScale

/-- `ENC = 2` (R73): a signed 32-bit sample, unscaled. -/
def codecDecodeS32 (v : BitVec 32) : F64 := i2d v.toInt

end Sys2Proof.Machine
end

