-- ==== Sys2Proof/Machine/Pseudo.lean ====
section
/-! DEFINITION. The pseudo-instructions of R94, each as the commands it expands to.  `RESET` is not a command: it is
the reset event (R290), `State.reset`.  The textual syntax of R93 is a notation for programs and is not modelled
(log 18); a line's encoded form is the pair `encode` gives. -/

namespace Sys2Proof.Machine

/-- One command with its input block. -/
def commandOf (i : Instr) (sin : List F64) : Command := { cw := (encode i).1, opd := (encode i).2, sin := sin }

/-- `SETP.EQ_BANDS v0, v1, v2, v3, v4, v5`: the six band commands in order. -/
def pseudoEqBands (v0 v1 v2 v3 v4 v5 : BitVec 64) : List Command :=
  [commandOf (.setpEqBand0 v0) [], commandOf (.setpEqBand1 v1) [], commandOf (.setpEqBand2 v2) [],
   commandOf (.setpEqBand3 v3) [], commandOf (.setpEqBand4 v4) [], commandOf (.setpEqBand5 v5) []]

/-- `n` identical frames. -/
def repeatFrame (l r : F64) : Nat → List F64
  | 0 => []
  | n + 1 => l :: r :: repeatFrame l r n

/-- `PROCESS.REP n, L R`: a PROCESS of `n` identical frames. -/
def pseudoProcessRep (n : BitVec 64) (l r : F64) : Command := commandOf (.process n) (repeatFrame l r n.toNat)

/-- `PROCESS.ZERO n`: a PROCESS of `n` frames of +0.0. -/
def pseudoProcessZero (n : BitVec 64) : Command := pseudoProcessRep n ⟨0#64⟩ ⟨0#64⟩

end Sys2Proof.Machine
end

