-- ==== Sys2Proof/Tests/Slice0.lean ====
section
/-! SUPPORT. Tests on fixed values.  Expected results come from the spec: the ids K1, B7, X8, … are those of
95_test_vectors.md, and a bare rule number names a worked example of that rule.  Theorems named `witness_<Name>` show
a concrete state and operands that meet the hypotheses of `Obligations.<Name>`. -/

-- Every `decide +kernel` waits for the declarations before it; one at a time, they do not each hold a thread.
set_option Elab.async false

namespace Sys2Proof.Tests

open Sys2Proof Sys2Proof.Machine

/-! ### Helpers -/

/-- The state a result holds; reset where it holds none. -/
def after (r : Result) : State :=
  match r with
  | .next t => t
  | .fault _ => State.reset
  | .refused _ => State.reset

/-- The response a result leaves on the port. -/
def answer (r : Result) : Option Response :=
  match r with
  | .next t => t.response
  | .fault _ => none
  | .refused _ => none

/-- The result is a next state. -/
def isNext (r : Result) : Bool :=
  match r with
  | .next _ => true
  | .fault _ => false
  | .refused _ => false

/-- The result is a next state that answers with this status. -/
def answers (status : BitVec 8) (r : Result) : Bool :=
  match answer r with
  | some p => decide (p.status = status)
  | none => false

/-- The result is this next state. -/
def gives (t : State) (r : Result) : Bool :=
  match r with
  | .next u => decide (u = t)
  | .fault _ => false
  | .refused _ => false

theorem next_after {r : Result} (h : isNext r = true) : r = .next (after r) := by
  cases r <;> simp_all [isNext, after]

theorem answers_next {status : BitVec 8} {r : Result} (h : answers status r = true) :
    ∃ t p, r = .next t ∧ t.response = some p ∧ p.status = status := by
  cases r with
  | next t =>
    cases ht : t.response with
    | none => simp [answers, answer, ht] at h
    | some p => exact ⟨t, p, rfl, ht, by simpa [answers, answer, ht] using h⟩
  | fault f => simp [answers, answer] at h
  | refused f => simp [answers, answer] at h

/-- A refused or accepted command with no output block. -/
def status (code : BitVec 8) (res : BitVec 64) : Option Response := some ⟨code, res, none⟩

/-- 48000.0 -/
def r48000 : F64 := ⟨0x40E7700000000000#64⟩
/-- 1000.0 -/
def f1000 : F64 := ⟨0x408F400000000000#64⟩
/-- 3.0 -/
def three : F64 := ⟨0x4008000000000000#64⟩
/-- 4.0 -/
def four : F64 := ⟨0x4010000000000000#64⟩
/-- 50.0 -/
def fifty : F64 := ⟨0x4049000000000000#64⟩
/-- 5.0 -/
def five : F64 := ⟨0x4014000000000000#64⟩

/-- A block at 48000 Hz with every stage off and every filter at the identity set. -/
def ready : State := { State.reset with configured := true, rate := r48000, masterEn := true }

/-- `ready` with short delay lines and the virtualizer on. -/
def readyVirt : State :=
  { ready with virt := { ready.virt with en := true, dly := ⟨⟨3#32, 0#32, []⟩, ⟨1#32, 0#32, []⟩⟩ } }

/-- A concrete record for the tests: the spec's defaults and suggestions, every elementary function constant where R14
names no value (no test rests on those). -/
def testConfig : Config :=
  specSuggestions
    { sin := fun _ => half, cos := fun _ => half, sinh := fun _ => fone, pow10 := fun _ => fone,
      log10 := fun _ => fneg ten, bqDesign := .cookbook, shelfParamMode := .slope, compBpBw := fone, compEps := fone,
      compSoften := softenQuadratic, bassInterval := 0#32, eqShelfSlope := fone, eqV20 := suggestedV20,
      eqV100 := suggestedV100, virtSideMode := .filter, dlyMax := some 65536, blockMax := none, rst := rstDefaults }

/-! ### Well-formed commands -/

/-- R87, R82: a PROCESS whose block is a word short, a word long or missing is refused. -/
theorem test_wellFormed_refuses_wrong_block :
    wellFormed (.process 2#64) [fone, fone, fone] = false ∧ wellFormed (.process 0#64) [fone] = false ∧
    wellFormed (.process 1#64) [] = false ∧ wellFormed (.process 2#64) [fone, fone, fone, fone] = true := by
  decide +kernel

/-- R82: a block on any other command is refused. -/
theorem test_wellFormed_refuses_block_elsewhere :
    wellFormed (.configure 2#8 0#8 0#64) [fone] = false ∧ wellFormed (.setpEqEn 1#64) [fone] = false ∧
    wellFormed .getpEqEn [fone] = false ∧ wellFormed .getpEqEn [] = true := by
  decide +kernel

/-! ### Decoding -/

/-- K1, K2, K3, K10, and the command words of the programs P1, P4: CONFIGURE and PROCESS. -/
theorem test_decode_configure_process :
    decode 0x01000002#32 0x40E7700000000000#64 = .ok (.configure 2#8 0#8 0x40E7700000000000#64) ∧
    decode 0x01000102#32 0x40E5888000000000#64 = .ok (.configure 2#8 1#8 0x40E5888000000000#64) ∧
    decode 0x01000202#32 0#64 = .ok (.configure 2#8 2#8 0#64) ∧
    decode 0x0100FF07#32 7#64 = .ok (.configure 7#8 255#8 7#64) ∧
    decode 0x04000000#32 0x3E8#64 = .ok (.process 1000#64) ∧
    decode 0x04000000#32 0x77#64 = .ok (.process 119#64) := by
  decide +kernel

/-- R84, R91: the 17 SETP words, written out from OPC 02H and the PID table. -/
theorem test_decode_setp :
    decode 0x02000000#32 1#64 = .ok (.setpMasterEn 1#64) ∧
    decode 0x02100000#32 2#64 = .ok (.setpCompEn 2#64) ∧
    decode 0x02110000#32 3#64 = .ok (.setpCompRatio 3#64) ∧
    decode 0x02200000#32 4#64 = .ok (.setpBassEn 4#64) ∧
    decode 0x02210000#32 5#64 = .ok (.setpBassStrength 5#64) ∧
    decode 0x02220000#32 6#64 = .ok (.setpBassFreq 6#64) ∧
    decode 0x02300000#32 7#64 = .ok (.setpEqEn 7#64) ∧
    decode 0x02310000#32 8#64 = .ok (.setpEqBand0 8#64) ∧
    decode 0x02320000#32 9#64 = .ok (.setpEqBand1 9#64) ∧
    decode 0x02330000#32 10#64 = .ok (.setpEqBand2 10#64) ∧
    decode 0x02340000#32 11#64 = .ok (.setpEqBand3 11#64) ∧
    decode 0x02350000#32 12#64 = .ok (.setpEqBand4 12#64) ∧
    decode 0x02360000#32 13#64 = .ok (.setpEqBand5 13#64) ∧
    decode 0x02370000#32 14#64 = .ok (.setpEqLoudEn 14#64) ∧
    decode 0x02380000#32 15#64 = .ok (.setpEqLoudRef 15#64) ∧
    decode 0x02400000#32 16#64 = .ok (.setpVirtEn 16#64) ∧
    decode 0x02410000#32 17#64 = .ok (.setpVirtStrength 17#64) := by
  decide +kernel

/-- R84, R91, R240: the 17 GETP words, with an operand that must be ignored. -/
theorem test_decode_getp :
    decode 0x03000000#32 9#64 = .ok .getpMasterEn ∧
    decode 0x03100000#32 9#64 = .ok .getpCompEn ∧
    decode 0x03110000#32 9#64 = .ok .getpCompRatio ∧
    decode 0x03200000#32 9#64 = .ok .getpBassEn ∧
    decode 0x03210000#32 9#64 = .ok .getpBassStrength ∧
    decode 0x03220000#32 9#64 = .ok .getpBassFreq ∧
    decode 0x03300000#32 9#64 = .ok .getpEqEn ∧
    decode 0x03310000#32 9#64 = .ok .getpEqBand0 ∧
    decode 0x03320000#32 9#64 = .ok .getpEqBand1 ∧
    decode 0x03330000#32 9#64 = .ok .getpEqBand2 ∧
    decode 0x03340000#32 9#64 = .ok .getpEqBand3 ∧
    decode 0x03350000#32 9#64 = .ok .getpEqBand4 ∧
    decode 0x03360000#32 9#64 = .ok .getpEqBand5 ∧
    decode 0x03370000#32 9#64 = .ok .getpEqLoudEn ∧
    decode 0x03380000#32 9#64 = .ok .getpEqLoudRef ∧
    decode 0x03400000#32 9#64 = .ok .getpVirtEn ∧
    decode 0x03410000#32 9#64 = .ok .getpVirtStrength := by
  decide +kernel

/-- K4, K6, K7, K9, K11, K12, K13, and the word 07000000H of P5. -/
theorem test_decode_illegal :
    decode 0x01010002#32 0#64 = .error .pidNotZero ∧ decode 0x02210001#32 0#64 = .error .auxNotZero ∧
    decode 0x02120000#32 0#64 = .error .reservedPid ∧ decode 0x03390000#32 0#64 = .error .reservedPid ∧
    decode 0x04000001#32 0#64 = .error .auxNotZero ∧ decode 0x04010000#32 0#64 = .error .pidNotZero ∧
    decode 0x00000000#32 0#64 = .error .reservedOpc ∧ decode 0x05000000#32 0#64 = .error .reservedOpc ∧
    decode 0x07000000#32 0#64 = .error .reservedOpc ∧ decode 0xFFFFFFFF#32 0#64 = .error .reservedOpc := by
  decide +kernel

/-- R65, R80: X8's command on a transport, byte by byte; a string of another length is refused. -/
theorem test_decode_bytes :
    decodeBytes [0x02#8, 0x01#8, 0x00#8, 0x01#8, 0x00#8, 0x00#8, 0x00#8, 0x00#8, 0x80#8, 0x88#8, 0xE5#8, 0x40#8] =
      .ok (.configure 2#8 1#8 0x40E5888000000000#64) ∧
    decodeBytes [0x02#8, 0x01#8, 0x00#8, 0x01#8] = .error .badLength ∧ decodeBytes [] = .error .badLength := by
  decide +kernel

/-- The opcode table's numbering: the command word in bits 31..0, the operand from bit 32. -/
theorem test_decode_table_word :
    decodeTableWord 32 0x01000002 = some (.configure 2#8 0#8 0#64) ∧
    decodeTableWord 96 0x40E770000000000001000002 = some (.configure 2#8 0#8 0x40E7700000000000#64) ∧
    decodeTableWord 32 0x02380000 = some (.setpEqLoudRef 0#64) ∧ decodeTableWord 32 0x02390000 = none ∧
    decodeTableWord 32 0x04000000 = some (.process 0#64) := by
  decide +kernel

/-- `withFetchWord` puts the command where the next step takes it: X15 as the first command after reset. -/
theorem test_step_runs_first_word :
    answer (step (State.reset.withFetchWord 32 0x03220000)) = status 0x00#8 0x404B800000000000#64 ∧
    answer (step (State.reset.withFetchWord 32 0x07000000)) = status 0x01#8 0#64 := by
  decide +kernel

/-- R94: the pseudo-instructions of P1 expand to the words the program gives. -/
theorem test_pseudo :
    (pseudoEqBands 0#64 0#64 0#64 0#64 0#64 0#64).map (fun k => k.cw) =
      [0x02310000#32, 0x02320000#32, 0x02330000#32, 0x02340000#32, 0x02350000#32, 0x02360000#32] ∧
    pseudoProcessZero 2#64 = ⟨0x04000000#32, 2#64, [posZero, posZero, posZero, posZero]⟩ := by
  decide +kernel

/-! ### Arithmetic (R12, R13, R15) -/

/-- B9's inexact ramp steps, the loudness decay of P1, and D1's rounded products. -/
theorem test_arithmetic :
    rampStep fone ⟨0x3FB999999999999A#64⟩ three = ⟨0x3FE6666666666666#64⟩ ∧
    rampStep ⟨0x3FE6666666666666#64⟩ ⟨0x3FB999999999999A#64⟩ two = ⟨0x3FD9999999999999#64⟩ ∧
    fsub fifty eqDecayStep = ⟨0x4048F33333333333#64⟩ ∧
    rnd (fmul r48000 virtDelayA) = 1392 ∧ rnd (fmul r48000 virtDelayB) = 1104 ∧
    rnd (fmul hundred virtDelayA) = 3 ∧ rnd (fmul hundred virtDelayB) = 2 ∧
    rnd (fmul ten virtDelayA) = 0 ∧ rnd (fmul ten virtDelayB) = 0 := by
  decide +kernel

/-- C7: truncation toward zero (3.7, −2.2, 0.9, 1000.0), and R15's saturation and NaN. -/
theorem test_d2i :
    d2i ⟨0x400D99999999999A#64⟩ = 3 ∧ d2i ⟨0xC00199999999999A#64⟩ = -2 ∧ d2i ⟨0x3FECCCCCCCCCCCCD#64⟩ = 0 ∧
    d2i f1000 = 1000 ∧ d2i ⟨0x7FF0000000000000#64⟩ = 2 ^ 63 - 1 ∧ d2i ⟨0xFFF0000000000000#64⟩ = -(2 ^ 63) ∧
    d2i ⟨0x7FF8000000000000#64⟩ = 0 ∧ satU 8 300 = 255#8 ∧ satU 8 (-1) = 0#8 := by
  decide +kernel

/-! ### BiquadFilter -/

/-- B7's filter. -/
def b7 : Biquad :=
  { Biquad.reset with cur := ⟨half, ⟨0x3FD0000000000000#64⟩, ⟨0x3FC0000000000000#64⟩, ⟨0xBFE0000000000000#64⟩,
    ⟨0x3FD0000000000000#64⟩⟩ }

/-- B7: the recursion. -/
theorem test_biquad_recursion :
    let p := bqProcess b7 fone
    let q := bqProcess p.1 posZero
    let r := bqProcess q.1 posZero
    p.2 = half ∧ q.2 = half ∧ r.2 = ⟨0x3FD0000000000000#64⟩ ∧ r.1.w1 = posZero ∧ r.1.w2 = half := by
  decide +kernel

/-- B8, B10: the ramp, and the ramp interrupted after its second call. -/
theorem test_biquad_ramp :
    let step1 (b : Biquad) : Biquad := (bqProcess b fone).1
    let b1 := step1 (bqInstall ⟨two, posZero, posZero, posZero, posZero⟩ 4#32 Biquad.reset)
    let b2 := step1 b1
    let b3 := step1 b2
    let b4 := step1 b3
    let c1 := bqInstall ⟨three, posZero, posZero, posZero, posZero⟩ 2#32 b2
    let c2 := step1 c1
    b1.cur.a0 = ⟨0x3FF4000000000000#64⟩ ∧ b2.cur.a0 = ⟨0x3FF8000000000000#64⟩ ∧ b3.cur.a0 = ⟨0x3FFC000000000000#64⟩ ∧
    b4.cur.a0 = two ∧ b3.rem = 1#32 ∧ b4.rem = 0#32 ∧ (bqProcess b1 fone).2 = ⟨0x3FF4000000000000#64⟩ ∧
    c1.cur.a0 = ⟨0x3FF8000000000000#64⟩ ∧ c1.tgt.a0 = three ∧ c2.cur.a0 = ⟨0x4002000000000000#64⟩ ∧
    (step1 c2).cur.a0 = three := by
  decide +kernel

/-- B11, B12: interval 0 during a ramp, `clear`, and the identity set on −0.0. -/
theorem test_biquad_install_now_and_clear :
    let ramping := bqInstall ⟨two, posZero, posZero, posZero, posZero⟩ 4#32 b7
    let now := bqInstall ⟨three, fone, posZero, posZero, posZero⟩ 0#32 ramping
    now.cur = ⟨three, fone, posZero, posZero, posZero⟩ ∧ now.rem = 0#32 ∧
    bqClear { ramping with w1 := fone, w2 := two } = { ramping with w1 := posZero, w2 := posZero } ∧
    (bqProcess Biquad.reset negZero).2 = posZero := by
  decide +kernel

/-- B5 (structure), B4 (`a1 = 0.0`): the flat shelf's normalised set, and the band-pass numerator. -/
theorem test_biquad_designs :
    let flat := bqDesign testConfig .highshelf (eqCorner 0) r48000 fone posZero posZero
    let band := bqDesign testConfig .bandpass compBpFreq r48000 suggestedBpBw posZero posZero
    flat.a0 = fone ∧ flat.a1 = flat.b1 ∧ flat.a2 = flat.b2 ∧ band.a1 = posZero ∧ band.a2 = fneg band.a0 := by
  decide +kernel

/-! ### DelayLine and FIR16 -/

/-- D2: a line of length 3. -/
theorem test_delay_length_three :
    let d0 : DelayLine := ⟨3#32, 0#32, []⟩
    let p1 := dlProcess d0 fone
    let p2 := dlProcess p1.1 two
    let p3 := dlProcess p2.1 three
    let p4 := dlProcess p3.1 four
    let p5 := dlProcess p4.1 five
    [p1.2, p2.2, p3.2, p4.2, p5.2] = [posZero, posZero, posZero, fone, two] ∧
    [p1.1.cur, p2.1.cur, p3.1.cur, p4.1.cur, p5.1.cur] = [2#32, 1#32, 0#32, 2#32, 1#32] ∧
    p5.1.buf = [(0, four), (1, three), (2, five)] := by
  decide +kernel

/-- D3, D4: lengths 1 and 0; a NaN's payload and −0.0 come out as they went in. -/
theorem test_delay_short_lines :
    let d1 := (dlProcess ⟨1#32, 0#32, []⟩ ⟨0x7FF8000000001234#64⟩).1
    (dlProcess d1 negZero).2 = ⟨0x7FF8000000001234#64⟩ ∧ (dlProcess (dlProcess d1 negZero).1 fone).2 = negZero ∧
    d1.cur = 0#32 ∧ dlProcess DelayLine.reset negZero = (DelayLine.reset, negZero) := by
  decide +kernel

/-- F2, and the newest-first order of F3's coefficients. -/
theorem test_fir :
    let u := firLoad #v[half, ⟨0x3FD0000000000000#64⟩, posZero, posZero, posZero, posZero, posZero, posZero,
      posZero, posZero, posZero, posZero, posZero, posZero, posZero, fone] Fir16.reset
    let p := firProcess u four
    let q := firProcess p.1 ⟨0x4020000000000000#64⟩
    let r := firProcess q.1 posZero
    p.2 = two ∧ q.2 = five ∧ r.2 = two := by
  decide +kernel

/-! ### The effects' operations -/

/-- C8: the slew arithmetic. -/
theorem test_compressor_slew :
    slew compUnity compUnity (2 ^ 25) r48000 256 = 1048 ∧ slew compUnity compUnity (2 ^ 23) r48000 256 = -8388 ∧
    slewDivisor r48000 4800 = 4800 ∧ slewDivisor r48000 4 = 1000 ∧
    slew compUnity compUnity 17636913 r48000 4 = 53 ∧
    slew compUnity 0x1000000#64 11881243 r48000 480 = -4895 := by
  decide +kernel

/-- C7: the analysis with identity weighting filters, left channel 3.7, −2.2, 0.9, 1000.0. -/
theorem test_compressor_analysis :
    let words := [⟨0x400D99999999999A#64⟩, posZero, ⟨0xC00199999999999A#64⟩, posZero, ⟨0x3FECCCCCCCCCCCCD#64⟩, posZero,
      f1000, posZero]
    let a := compAnalyse ⟨Biquad.reset, Biquad.reset⟩ ⟨0#64, 0#64⟩ words
    a.2 = ⟨1000013#64, 0#64⟩ ∧ blockPower a.2 4 = 250003 := by
  decide +kernel

/-- A1: `BASS_Q` at strengths 0, 333, 500, 666, 1000. -/
theorem test_bass_q :
    bassQOf 0#64 = half ∧ bassQOf 333#64 = fone ∧ bassQOf 500#64 = ⟨0x3FF40313381EC031#64⟩ ∧
    bassQOf 666#64 = ⟨0x3FF8000000000000#64⟩ ∧ bassQOf 1000#64 = ⟨0x40000313381EC031#64⟩ := by
  decide +kernel

/-- E4: the loudness correction at full fade, level 60, and clamped at both ends. -/
theorem test_equalizer_loudness :
    let e (ref : F64) : Equalizer := { State.reset.eq with loudEn := true, loudRef := ref, fade := 100#8 }
    bandGains testConfig (e ten) fifty =
      ⟨⟨0x4035266666666666#64⟩, ⟨0x402C000000000000#64⟩, five, posZero, negTwo, ⟨0x400A000000000000#64⟩⟩ ∧
    bandGains testConfig (e hundred) fifty = suggestedV100 ∧
    bandGains testConfig (e (fneg hundred)) fifty = suggestedV20 := by
  decide +kernel

/-- E2, E5: the first refresh lowers 50.0 to 49.9 (with `flog10(1e-10) = −10`, the constant of `testConfig`); −3.95 goes
to the interval's level −4.0; the fade steps up only. -/
theorem test_equalizer_loud_update :
    loudUpdate testConfig 480#32 fifty 0#64 = ⟨0x4048F33333333333#64⟩ ∧
    loudUpdate testConfig 480#32 ⟨0xC00F99999999999A#64⟩ 0#64 = fneg four ∧
    eqFadeStep true 99#8 = 100#8 ∧ eqFadeStep true 100#8 = 100#8 ∧ eqFadeStep false 7#8 = 7#8 := by
  decide +kernel

/-- P3: a mono frame at strength 0 comes out as it went in; both delay lines take it. -/
theorem test_virtualizer_mono :
    let p := virtFrame testConfig readyVirt.virt hundred hundred
    let q := virtFrame testConfig p.1 ⟨0xC00C000000000000#64⟩ ⟨0xC00C000000000000#64⟩
    p.2 = (hundred, hundred) ∧ q.2 = (⟨0xC00C000000000000#64⟩, ⟨0xC00C000000000000#64⟩) ∧
    q.1.dly.l.buf = [(0, hundred), (2, ⟨0xC00C000000000000#64⟩)] ∧ q.1.dly.l.cur = 1#32 ∧
    q.1.last = ⟨posZero, posZero⟩ := by
  decide +kernel

/-- R191's table: the derived bits at strengths 0, 1, 499, 500; the level at 0. -/
theorem test_virtualizer_derive :
    let v (strength : BitVec 64) : Virtualizer := virtDerive testConfig { State.reset.virt with strength := strength }
    (v 0#64).deep = false ∧ (v 0#64).wide = false ∧ (v 0#64).level = 0#64 ∧ (v 1#64).deep = true ∧
    (v 499#64).wide = false ∧ (v 500#64).wide = true := by
  decide +kernel

/-- R71 to R73: one sample of each encoding. -/
theorem test_codec :
    codecDecodeS16 0xFFFF#16 = ⟨0xC070000000000000#64⟩ ∧ codecDecodeF32 0x3F800000#32 = ⟨0x412E848000000000#64⟩ ∧
    codecDecodeF32 0x00000001#32 = fmul ⟨0x36A0000000000000#64⟩ codecFloatScale ∧
    codecDecodeS32 0x80000000#32 = ⟨0xC1E0000000000000#64⟩ := by
  decide +kernel

/-! ### Commands: one step each -/

/-- X8, from reset: the registers the vector names. -/
theorem test_configure_44100 :
    let t := after (exec (.configure 2#8 1#8 0x40E5888000000000#64) State.reset)
    t.response = status 0x00#8 0#64 ∧ t.configured = true ∧ t.enc = 1#8 ∧ t.eq.interval = 441#32 ∧
    t.virt.dly.l.len = 1279#32 ∧ t.virt.dly.r.len = 1014#32 := by
  decide +kernel

/-- X2 to X7, in the vectors' order. -/
theorem test_configure_refusals :
    gives (reply ready 0x03#8 0#64 none) (exec (.configure 1#8 0#8 0x40E7700000000000#64) ready) = true ∧
    gives (reply ready 0x02#8 0#64 none) (exec (.configure 2#8 0#8 0#64) ready) = true ∧
    gives (reply ready 0x02#8 0#64 none) (exec (.configure 2#8 0#8 0xBFF0000000000000#64) ready) = true ∧
    gives (reply ready 0x02#8 0#64 none) (exec (.configure 2#8 0#8 0x7FF8000000000000#64) ready) = true ∧
    gives (reply ready 0x02#8 0#64 none) (exec (.configure 2#8 0#8 0x7FF0000000000000#64) ready) = true ∧
    gives (reply ready 0x04#8 0#64 none) (exec (.configure 2#8 3#8 0x40E7700000000000#64) ready) = true ∧
    gives (reply ready 0x03#8 0#64 none) (exec (.configure 3#8 7#8 0xBFF0000000000000#64) ready) = true := by
  decide +kernel

/-- X1; and A2 through the chain: the bass boost at the identity set. -/
theorem test_process :
    answer (exec (.process 4#64) State.reset) = status 0x05#8 0#64 ∧
    answer (exec (.process 1#64) { ready with bass := { ready.bass with en := true }, sin := [fone, two] }) =
      some ⟨0x00#8, 1#64, some [four, five]⟩ := by
  decide +kernel

/-- C1, C5 (with identity weighting filters): ratio 1.0 leaves the samples, the fade moves, `ACTIVE` is read after it. -/
theorem test_process_compressor :
    let words : List F64 :=
      [⟨0x405EDD2F1A9FBE77#64⟩, ⟨0xC01C000000000000#64⟩, ⟨0x412E848000000000#64⟩, ⟨0x4004000000000000#64⟩]
    let enabled : Compressor := { ready.comp with en := true }
    let ending : Compressor := { ready.comp with fade := 1#8 }
    let running := processWith testConfig 2#64 { ready with masterEn := false, comp := enabled, sin := words }
    let fading := processWith testConfig 1#64 { ready with comp := ending, sin := [fone, fone] }
    answer running = some ⟨0x00#8, 0#64, some words⟩ ∧
    (after running).comp.fade = 1#8 ∧ (after running).comp.cur = ⟨compUnity, compUnity⟩ ∧
    answer fading = some ⟨0x00#8, 0#64, some [fone, fone]⟩ ∧ (after fading).comp.fade = 0#8 := by
  decide +kernel

/-- R223, R224, R226, R229, R236, R238, X11: each bool knob takes 1 and only its own register moves; 2 is refused. -/
theorem test_setp_bools :
    gives (reply { State.reset with masterEn := true } 0x00#8 0#64 none) (exec (.setpMasterEn 1#64) State.reset) = true ∧
    gives (reply ready 0x04#8 0#64 none) (exec (.setpMasterEn 2#64) ready) = true ∧
    (after (exec (.setpCompEn 1#64) ready)).comp.en = true ∧ answers 0x04#8 (exec (.setpCompEn 2#64) ready) = true ∧
    (after (exec (.setpBassEn 1#64) ready)).bass.en = true ∧ answers 0x04#8 (exec (.setpBassEn 2#64) ready) = true ∧
    (after (exec (.setpEqEn 1#64) ready)).eq.en = true ∧ answers 0x04#8 (exec (.setpEqEn 2#64) ready) = true ∧
    (after (exec (.setpEqLoudEn 1#64) ready)).eq.loudEn = true ∧
    answers 0x04#8 (exec (.setpEqLoudEn 2#64) ready) = true ∧
    (after (exec (.setpVirtEn 1#64) ready)).virt.en = true ∧
    answers 0x04#8 (exec (.setpVirtEn 0x8000000000000001#64) ready) = true := by
  decide +kernel

/-- X9, X10, X13, X14: the `f64` knobs at the ends of their ranges. -/
theorem test_setp_floats :
    (after (exec (.setpCompRatio 0x4026000000000000#64) ready)).comp.ratio = ⟨0x4026000000000000#64⟩ ∧
    gives (reply ready 0x04#8 0#64 none) (exec (.setpCompRatio 0x4026000000000001#64) ready) = true ∧
    gives (reply ready 0x04#8 0#64 none) (exec (.setpCompRatio 0x3FEFFFFFFFFFFFFF#64) ready) = true ∧
    gives (reply ready 0x04#8 0#64 none) (exec (.setpBassFreq 0x0#64) ready) = true ∧
    gives (reply ready 0x04#8 0#64 none) (exec (.setpBassFreq 0x8000000000000000#64) ready) = true ∧
    (after (exec (.setpBassFreq 0x0000000000000001#64) ready)).bass.freq = ⟨1#64⟩ ∧
    (after (exec (.setpEqLoudRef 0x8000000000000000#64) ready)).eq.loudRef = negZero ∧
    gives (reply ready 0x04#8 0#64 none) (exec (.setpEqLoudRef 0x7FF8000000000000#64) ready) = true := by
  decide +kernel

/-- A4, and R227's and R239's ranges: the two strengths with what they derive. -/
theorem test_setp_strengths :
    let t := after (exec (.setpBassStrength 500#64) State.reset)
    t.bass.strength = 500#64 ∧ t.bass.q = ⟨0x3FF40313381EC031#64⟩ ∧ t.bass.lp = Biquad.reset ∧
    gives (reply ready 0x04#8 0#64 none) (exec (.setpBassStrength 1001#64) ready) = true ∧
    gives (reply ready 0x04#8 0#64 none) (exec (.setpBassStrength 0xFFFFFFFFFFFFFFFF#64) ready) = true ∧
    (after (exec (.setpVirtStrength 500#64) ready)).virt.wide = true ∧
    (after (exec (.setpVirtStrength 499#64) ready)).virt.deep = true ∧
    gives (reply ready 0x04#8 0#64 none) (exec (.setpVirtStrength 1001#64) ready) = true := by
  decide +kernel

/-- R230 to R235, X12: each band takes −1000, refuses −1001, and is its own register. -/
theorem test_setp_bands :
    let low : BitVec 64 := 0xFFFFFFFFFFFFFC18#64
    (after (exec (.setpEqBand0 low) ready)).eq.band = ⟨low, 0#64, 0#64, 0#64, 0#64, 0#64⟩ ∧
    (after (exec (.setpEqBand1 low) ready)).eq.band = ⟨0#64, low, 0#64, 0#64, 0#64, 0#64⟩ ∧
    (after (exec (.setpEqBand2 low) ready)).eq.band = ⟨0#64, 0#64, low, 0#64, 0#64, 0#64⟩ ∧
    (after (exec (.setpEqBand3 low) ready)).eq.band = ⟨0#64, 0#64, 0#64, low, 0#64, 0#64⟩ ∧
    (after (exec (.setpEqBand4 low) ready)).eq.band = ⟨0#64, 0#64, 0#64, 0#64, low, 0#64⟩ ∧
    (after (exec (.setpEqBand5 1000#64) ready)).eq.band = ⟨0#64, 0#64, 0#64, 0#64, 0#64, 1000#64⟩ ∧
    gives (reply ready 0x04#8 0#64 none) (exec (.setpEqBand0 0xFFFFFFFFFFFFFC17#64) ready) = true ∧
    gives (reply ready 0x04#8 0#64 none) (exec (.setpEqBand5 1001#64) ready) = true := by
  decide +kernel

/-- R31, R291: an instance with other `RST_*` values, its derived registers following (A1, R191's table). -/
theorem test_reset_other_defaults :
    let s := State.resetWith { testConfig with rst := { rstDefaults with bassStrength := 1000#64, virtStrength := 500#64 } }
    s.bass.strength = 1000#64 ∧ s.bass.q = ⟨0x40000313381EC031#64⟩ ∧ s.virt.strength = 500#64 ∧ s.virt.deep = true ∧
    s.virt.wide = true ∧ s.virt.level ≠ 0#64 := by
  decide +kernel

/-- A state whose knobs all differ, for the GETPs. -/
def knobs : State :=
  { State.reset with
    masterEn := true
    comp := { State.reset.comp with en := true, ratio := four }
    bass := { State.reset.bass with en := true, strength := 7#64, freq := three }
    eq := { State.reset.eq with en := true, loudEn := true, loudRef := negZero,
                                band := ⟨1#64, 2#64, 3#64, 4#64, 5#64, 0xFFFFFFFFFFFFFFFF#64⟩ }
    virt := { State.reset.virt with en := true, strength := 9#64 } }

/-- R241 to R246, X15: each GETP answers its own knob. -/
theorem test_getp_chain_comp_bass :
    answer (exec .getpMasterEn knobs) = status 0x00#8 1#64 ∧ answer (exec .getpCompEn knobs) = status 0x00#8 1#64 ∧
    answer (exec .getpCompRatio knobs) = status 0x00#8 0x4010000000000000#64 ∧
    answer (exec .getpBassEn knobs) = status 0x00#8 1#64 ∧ answer (exec .getpBassStrength knobs) = status 0x00#8 7#64 ∧
    answer (exec .getpBassFreq knobs) = status 0x00#8 0x4008000000000000#64 ∧
    answer (exec .getpBassFreq State.reset) = status 0x00#8 0x404B800000000000#64 := by
  decide +kernel

/-- R247 to R257: likewise. -/
theorem test_getp_eq_virt :
    answer (exec .getpEqEn knobs) = status 0x00#8 1#64 ∧ answer (exec .getpEqBand0 knobs) = status 0x00#8 1#64 ∧
    answer (exec .getpEqBand1 knobs) = status 0x00#8 2#64 ∧ answer (exec .getpEqBand2 knobs) = status 0x00#8 3#64 ∧
    answer (exec .getpEqBand3 knobs) = status 0x00#8 4#64 ∧ answer (exec .getpEqBand4 knobs) = status 0x00#8 5#64 ∧
    answer (exec .getpEqBand5 knobs) = status 0x00#8 0xFFFFFFFFFFFFFFFF#64 ∧
    answer (exec .getpEqLoudEn knobs) = status 0x00#8 1#64 ∧
    answer (exec .getpEqLoudRef knobs) = status 0x00#8 0x8000000000000000#64 ∧
    answer (exec .getpVirtEn knobs) = status 0x00#8 1#64 ∧ answer (exec .getpVirtStrength knobs) = status 0x00#8 9#64 := by
  decide +kernel

/-! ### Witnesses: states with the invariant -/

/-- A band gain of 0 is in its range (R30). -/
theorem band_zero : BandOk 0#64 := by unfold BandOk; decide

/-- `ready` has the invariant. -/
theorem ready_ok : StateOk ready where
  rate := by decide +kernel
  enc := by decide +kernel
  comp := ⟨by decide, by decide +kernel, rfl, ⟨fun _ => rfl, rfl⟩, ⟨fun _ => rfl, rfl⟩⟩
  bass := ⟨by decide, by decide +kernel, by decide +kernel, fun _ => rfl⟩
  eq := ⟨band_zero, band_zero, band_zero, band_zero, band_zero, band_zero, by decide +kernel, by decide, by decide,
    by decide, ⟨fun _ => rfl, fun _ => rfl, fun _ => rfl, fun _ => rfl, fun _ => rfl, rfl, rfl, rfl, rfl, rfl⟩,
    ⟨fun _ => rfl, fun _ => rfl, fun _ => rfl, fun _ => rfl, fun _ => rfl, rfl, rfl, rfl, rfl, rfl⟩⟩
  virt := ⟨by decide, rfl, by decide, rfl, ⟨by decide, rfl, by simp [ready, State.reset, State.resetWith, DelayLine.reset]⟩,
    ⟨by decide, rfl, by simp [ready, State.reset, State.resetWith, DelayLine.reset]⟩, ⟨fun _ => rfl, rfl⟩⟩
  fir := rfl

/-- `readyVirt` has the invariant. -/
theorem readyVirt_ok : StateOk readyVirt :=
  { ready_ok with
    virt := ⟨by decide, rfl, by decide, rfl, ⟨by decide, rfl, by simp [readyVirt]⟩,
      ⟨by decide, rfl, by simp [readyVirt]⟩, ⟨fun _ => rfl, rfl⟩⟩ }

/-- The five shelves with three calls left. -/
def rampingShelves : Shelves :=
  let b : Biquad := { Biquad.reset with rem := 3#32 }
  ⟨b, b, b, b, b⟩

/-- `ready` with the equalizer on and the next refresh three frames away. -/
def readyEq : State :=
  { ready with
    eq := { ready.eq with en := true, interval := 5#32, next := 3#32, sh := ⟨rampingShelves, rampingShelves⟩ } }

/-- `readyEq` has the invariant. -/
theorem readyEq_ok : StateOk readyEq :=
  { ready_ok with
    eq := ⟨band_zero, band_zero, band_zero, band_zero, band_zero, band_zero, by decide +kernel, by decide, by decide,
      by decide,
      ⟨nofun, nofun, nofun, nofun, nofun, rfl, rfl, rfl, rfl, rfl⟩,
      ⟨nofun, nofun, nofun, nofun, nofun, rfl, rfl, rfl, rfl, rfl⟩⟩ }

/-- `s` with an input block on the port. -/
def given (s : State) (words : List F64) : State := { s with sin := words }

/-- The invariant does not look at the port. -/
theorem given_ok {s : State} (h : StateOk s) (words : List F64) : StateOk (given s words) := { h with }

/-- `s` with one command issued. -/
def issued (s : State) (cmd : Command) : State := { s with inbox := [cmd] }

theorem issued_ok {s : State} (h : StateOk s) (cmd : Command) : StateOk (issued s cmd) := { h with }

theorem toReal_of {x : F64} {m e : Int} (hm : fsigned x = m) (he : fexpo x = e) : toReal x = (m : ℝ) * (2 : ℝ) ^ e := by
  rw [toReal, hm, he]

theorem toReal_one : toReal fone = 1 := by
  rw [toReal_of (m := 2 ^ 52) (e := -52) (by decide +kernel) (by decide +kernel)]; norm_num

theorem toReal_eleven : toReal ⟨0x4026000000000000#64⟩ = 11 := by
  rw [toReal_of (m := 11 * 2 ^ 49) (e := -49) (by decide +kernel) (by decide +kernel)]; norm_num

theorem toReal_zero : toReal posZero = 0 := by
  rw [toReal_of (m := 0) (e := -1074) (by decide +kernel) (by decide +kernel)]; norm_num

/-! ### Witnesses: decoding and the step -/

theorem witness_EncodeInvertsDecode :
    decode 0x03110000#32 0xDEADBEEF#64 = .ok .getpCompRatio ∧ opcOf 0x03110000#32 = 0x03#8 ∧
    decode 0x04000000#32 5#64 = .ok (.process 5#64) ∧ opcOf 0x04000000#32 ≠ 0x03#8 := by
  decide +kernel

theorem witness_IllegalCommandWords :
    (∃ e, decode 0x05000000#32 0#64 = .error e) ∧ (∃ e, decode 0x02120000#32 0#64 = .error e) ∧
    (∃ e, decode 0x01010002#32 0#64 = .error e) ∧ (∃ e, decode 0x03000001#32 0#64 = .error e) :=
  ⟨⟨.reservedOpc, by decide +kernel⟩, ⟨.reservedPid, by decide +kernel⟩, ⟨.pidNotZero, by decide +kernel⟩,
    ⟨.auxNotZero, by decide +kernel⟩⟩

theorem witness_TransportIsLittleEndian : [fone, two][0]? = some fone ∧ [fone, two][1]? = some two := by decide

theorem witness_StepRunsDecodedCommand :
    (issued ready ⟨0x02300000#32, 1#64, []⟩).inbox = [⟨0x02300000#32, 1#64, []⟩] ∧
    decode 0x02300000#32 1#64 = .ok (.setpEqEn 1#64) ∧ ready.inbox = [] := by
  decide +kernel

theorem witness_StepRefusesIllegalCommand :
    (issued ready ⟨0x07000000#32, 1#64, [fone]⟩).inbox = [⟨0x07000000#32, 1#64, [fone]⟩] ∧
    decode 0x07000000#32 1#64 = .error .reservedOpc := by
  decide +kernel

theorem witness_StepKeepsInvariant :
    ∃ s t, StateOk s ∧ s.inbox ≠ [] ∧ step s = .next t :=
  ⟨issued readyVirt ⟨0x04000000#32, 1#64, [fone, two]⟩, _, issued_ok readyVirt_ok _, by decide,
    next_after (by decide +kernel)⟩

theorem witness_StepNeverStops :
    ∃ s, StateOk s ∧ HostOk s ∧ s.inbox ≠ [] := by
  refine ⟨issued readyVirt ⟨0x04000000#32, 1#64, [fone, two]⟩, issued_ok readyVirt_ok _, ?_, by decide⟩
  rintro cmd rest i h hd
  obtain ⟨rfl, -⟩ : (⟨0x04000000#32, 1#64, [fone, two]⟩ : Command) = cmd ∧ [] = rest := by
    simpa [issued] using h
  have : decode 0x04000000#32 1#64 = .ok (.process 1#64) := by decide +kernel
  obtain rfl : Instr.process 1#64 = i := by simpa [this] using hd
  decide

/-! ### Witnesses: SETP and GETP -/

theorem witness_SetpBoolKnobs : (0#64).toNat ≤ 1 ∧ (1#64).toNat ≤ 1 ∧ 1 < (2#64).toNat := by decide

theorem witness_SetpCompRatio :
    (isFinite fone = true ∧ 1 ≤ toReal fone ∧ toReal fone ≤ 11) ∧
    (isFinite ⟨0x4026000000000000#64⟩ = true ∧ 1 ≤ toReal ⟨0x4026000000000000#64⟩ ∧
      toReal ⟨0x4026000000000000#64⟩ ≤ 11) ∧
    ¬(isFinite posZero = true ∧ 1 ≤ toReal posZero ∧ toReal posZero ≤ 11) ∧
    ¬(isFinite ⟨0x7FF8000000000000#64⟩ = true ∧ 1 ≤ toReal ⟨0x7FF8000000000000#64⟩ ∧
      toReal ⟨0x7FF8000000000000#64⟩ ≤ 11) := by
  refine ⟨⟨by decide +kernel, ?_, ?_⟩, ⟨by decide +kernel, ?_, ?_⟩, fun h => ?_, fun h => absurd h.1 (by decide +kernel)⟩
  · norm_num [toReal_one]
  · norm_num [toReal_one]
  · norm_num [toReal_eleven]
  · norm_num [toReal_eleven]
  · have := h.2.1; norm_num [toReal_zero] at this

theorem witness_SetpBassStrength :
    (0 ≤ (0#64).toInt ∧ (0#64).toInt ≤ 1000) ∧ (0 ≤ (1000#64).toInt ∧ (1000#64).toInt ≤ 1000) ∧
    ¬(0 ≤ (1001#64).toInt ∧ (1001#64).toInt ≤ 1000) ∧
    ¬(0 ≤ (0xFFFFFFFFFFFFFFFF#64).toInt ∧ (0xFFFFFFFFFFFFFFFF#64).toInt ≤ 1000) ∧
    ready.configured = true ∧ State.reset.configured = false := by
  decide

theorem witness_SetpBassFreq :
    (isFinite fone = true ∧ 0 < toReal fone) ∧ ¬(isFinite posZero = true ∧ 0 < toReal posZero) ∧
    ¬(isFinite ⟨0x7FF0000000000000#64⟩ = true ∧ 0 < toReal ⟨0x7FF0000000000000#64⟩) := by
  refine ⟨⟨by decide +kernel, by norm_num [toReal_one]⟩, fun h => ?_, fun h => absurd h.1 (by decide +kernel)⟩
  have := h.2; norm_num [toReal_zero] at this

theorem witness_SetpEqBands :
    (-1000 ≤ (0xFFFFFFFFFFFFFC18#64).toInt ∧ (0xFFFFFFFFFFFFFC18#64).toInt ≤ 1000) ∧
    (-1000 ≤ (1000#64).toInt ∧ (1000#64).toInt ≤ 1000) ∧
    ¬(-1000 ≤ (0xFFFFFFFFFFFFFC17#64).toInt ∧ (0xFFFFFFFFFFFFFC17#64).toInt ≤ 1000) ∧
    ¬(-1000 ≤ (1001#64).toInt ∧ (1001#64).toInt ≤ 1000) := by
  decide

theorem witness_SetpEqLoudRef :
    isFinite negZero = true ∧ isNaN ⟨0x7FF8000000000000#64⟩ = true ∧ isInf ⟨0xFFF0000000000000#64⟩ = true := by
  decide +kernel

theorem witness_SetpVirtStrength :
    (0 ≤ (0#64).toInt ∧ (0#64).toInt ≤ 1000) ∧ (0 ≤ (500#64).toInt ∧ (500#64).toInt ≤ 1000) ∧
    ¬(0 ≤ (1001#64).toInt ∧ (1001#64).toInt ≤ 1000) := by
  decide

theorem witness_SetpTouchesNoAudioState :
    (IsSetp (.setpBassStrength 1000#64) ∧ ∃ t, exec (.setpBassStrength 1000#64) ready = .next t) ∧
    (IsGetp .getpVirtEn ∧ ∃ t, exec .getpVirtEn ready = .next t) :=
  ⟨⟨⟨(.setpBassStrength, .getpBassStrength), by simp [knobPairs], 1000#64, rfl⟩, _, next_after (by decide +kernel)⟩,
    ⟨(.setpVirtEn, .getpVirtEn), by simp [knobPairs], rfl⟩, _, next_after (by decide +kernel)⟩

/-- The pair that the rule singles out, on a configured block. -/
theorem witness_SetpsOfDifferentKnobsCommute :
    let p : (BitVec 64 → Instr) × Instr := (.setpBassStrength, .getpBassStrength)
    let q : (BitVec 64 → Instr) × Instr := (.setpBassFreq, .getpBassFreq)
    p ∈ knobPairs ∧ q ∈ knobPairs ∧ p.2 ≠ q.2 ∧
    (∃ a b, exec (p.1 7#64) ready = .next a ∧ exec (q.1 0x4049000000000000#64) a = .next b) ∧
    (∃ c d, exec (q.1 0x4049000000000000#64) ready = .next c ∧ exec (p.1 7#64) c = .next d) :=
  ⟨by simp [knobPairs], by simp [knobPairs], nofun,
    ⟨_, _, next_after (by decide +kernel), next_after (by decide +kernel)⟩,
    ⟨_, _, next_after (by decide +kernel), next_after (by decide +kernel)⟩⟩

theorem witness_ReadBack :
    ((.setpEqLoudRef, .getpEqLoudRef) : (BitVec 64 → Instr) × Instr) ∈ knobPairs ∧
    ∃ t r, exec (.setpEqLoudRef 0x8000000000000000#64) ready = .next t ∧ t.response = some r ∧ r.status = 0x00#8 :=
  ⟨by simp [knobPairs], answers_next (by decide +kernel)⟩

theorem witness_KnobsChangeOnlyBySetp :
    ((.setpBassFreq, .getpBassFreq) : (BitVec 64 → Instr) × Instr) ∈ knobPairs ∧
    (∀ opd, Instr.configure 2#8 0#8 0x40E7700000000000#64 ≠ .setpBassFreq opd) ∧
    (∃ t, exec (.configure 2#8 0#8 0x40E7700000000000#64) ready = .next t) ∧
    exec .getpBassFreq ready = .next (reply ready 0x00#8 0x404B800000000000#64 none) :=
  ⟨by simp [knobPairs], nofun, ⟨_, next_after (by decide +kernel)⟩, rfl⟩

/-! ### Witnesses: CONFIGURE and the errors -/

theorem toReal_48000 : toReal r48000 = 48000 := by
  rw [toReal_of (m := 375 * 2 ^ 44) (e := -37) (by decide +kernel) (by decide +kernel)]; norm_num

/-- At 48000 Hz, and at 2259862 Hz, where the longer line takes exactly 65536 words. -/
theorem witness_ConfigureCarriedOut :
    let samples (rate : F64) : Int := d2i (fadd (fmul rate ⟨0x3F9DB22D0E560419#64⟩) ⟨0x3FE0000000000000#64⟩)
    (isFinite r48000 = true ∧ 0 < toReal r48000 ∧ (0#8).toNat ≤ 2 ∧ samples r48000 ≤ 65536) ∧
    (let top : F64 := ⟨0x41413DCB00000000#64⟩
     isFinite top = true ∧ 0 < toReal top ∧ (2#8).toNat ≤ 2 ∧ samples top = 65536) := by
  refine ⟨⟨by decide +kernel, by norm_num [toReal_48000], by decide, by decide +kernel⟩, by decide +kernel, ?_, by decide,
    by decide +kernel⟩
  rw [toReal_of (m := 1129931 * 2 ^ 32) (e := -31) (by decide +kernel) (by decide +kernel)]
  positivity

theorem witness_RefusalOrder :
    (3#8).toNat ≠ 2 ∧ ((2#8).toNat = 2 ∧ ¬(isFinite posZero = true ∧ 0 < toReal posZero)) ∧
    (isFinite r48000 = true ∧ 0 < toReal r48000 ∧ 2 < (3#8).toNat) ∧
    ((2#8).toNat ≤ 2 ∧ testConfig.dlyMax = some 65536 ∧ isFinite ⟨0x4150000000000000#64⟩ = true ∧
      0 < toReal ⟨0x4150000000000000#64⟩ ∧ ((65536 : Nat) : Int) < delayLength ⟨0x4150000000000000#64⟩ virtDelayA) ∧
    State.reset.configured = false ∧ ready.configured = true ∧
    ({ testConfig with blockMax := some 4 } : Config).blockMax = some 4 ∧ 4 < (5#64).toNat ∧
    (IsSetp (.setpBassEn 2#64) ∧ ∃ t r, exec (.setpBassEn 2#64) ready = .next t ∧ t.response = some r) := by
  refine ⟨by decide, ⟨rfl, fun h => ?_⟩, ⟨by decide +kernel, by norm_num [toReal_48000], by decide⟩,
    ⟨by decide, rfl, by decide +kernel, ?_, by decide +kernel⟩, rfl, rfl, rfl, by decide,
    ⟨(.setpBassEn, .getpBassEn), by simp [knobPairs], 2#64, rfl⟩, ?_⟩
  · have := h.2; norm_num [toReal_zero] at this
  · rw [toReal_of (m := 2 ^ 52) (e := -30) (by decide +kernel) (by decide +kernel)]; positivity
  · obtain ⟨t, p, h, hp, -⟩ := answers_next (status := 0x04#8) (r := exec (.setpBassEn 2#64) ready) (by decide +kernel)
    exact ⟨t, p, h, hp⟩

theorem witness_ConfigureTwiceIsOnce :
    ∃ t, exec (.configure 2#8 0#8 0x40E7700000000000#64) ready = .next t := ⟨_, next_after (by decide +kernel)⟩

theorem witness_ErrorChangesNothing :
    (∃ t r, runCommand ⟨0x01000703#32, 0xBFF0000000000000#64, [fone]⟩ ready = .next t ∧ t.response = some r ∧
      r.status = 0x03#8) ∧
    ∃ t r, exec (.process 4#64) State.reset = .next t ∧ t.response = some r ∧ r.status = 0x05#8 :=
  ⟨answers_next (by decide +kernel), answers_next (by decide +kernel)⟩

theorem witness_ResponseShape :
    (∃ t, exec .getpEqEn ready = .next t) ∧ (∃ t, exec (.setpEqEn 2#64) ready = .next t) ∧
    (∃ t, exec (.configure 2#8 0#8 0#64) ready = .next t) ∧ ∃ t, exec (.process 0#64) ready = .next t :=
  ⟨⟨_, next_after (by decide +kernel)⟩, ⟨_, next_after (by decide +kernel)⟩, ⟨_, next_after (by decide +kernel)⟩,
    ⟨_, next_after (by decide +kernel)⟩⟩

/-! ### Witnesses: PROCESS -/

/-- A block with the virtualizer and the equalizer on, one frame, and none. -/
theorem witness_ProcessCompletes :
    let s := given { readyVirt with eq := readyEq.eq } [fone, two]
    (s.configured = true ∧ s.sin.length = 2 * (1#64).toNat ∧
      (s.virt.en = true ∧ dlInBounds s.virt.dly.l = true ∧ dlInBounds s.virt.dly.r = true) ∧
      (s.eq.en = true ∧ 1 ≤ s.eq.interval.toNat)) ∧
    (ready.configured = true ∧ ready.sin.length = 2 * (0#64).toNat ∧ ready.virt.en = false ∧ ready.eq.en = false) := by
  decide

theorem witness_ProcessStopsOnWrongBlock :
    (given ready [fone]).configured = true ∧ (given ready [fone]).sin.length ≠ 2 * (1#64).toNat := by
  decide

theorem witness_ProcessOneFrame :
    let s := given { readyVirt with eq := readyEq.eq } [fone, two]
    s.configured = true ∧ s.sin = [fone, two] ∧
    (s.virt.en = true ∧ dlInBounds s.virt.dly.l = true ∧ dlInBounds s.virt.dly.r = true) ∧
    (s.eq.en = true ∧ 1 ≤ s.eq.interval.toNat) := by
  decide

theorem witness_ProcessStagesOffCopies :
    let s := given ready [fone, negZero]
    s.configured = true ∧ s.sin.length = 2 * (1#64).toNat ∧ s.comp.en = false ∧ s.bass.en = false ∧ s.virt.en = false ∧
    s.eq.en = false ∧ s.comp.fade = 0#8 := by
  decide

theorem witness_ProcessWritesOnlyRunningStages :
    (∃ t, exec (.process 1#64) (given readyVirt [fone, two]) = .next t) ∧ readyVirt.comp.en = false ∧
    readyVirt.comp.fade = 0#8 ∧ readyVirt.bass.en = false ∧ readyVirt.eq.en = false ∧ ready.virt.en = false :=
  ⟨⟨_, next_after (by decide +kernel)⟩, rfl, rfl, rfl, rfl, rfl⟩

/-- A cut into one frame and two, and a cut into none and one. -/
theorem witness_ProcessSplits :
    StateOk readyVirt ∧ readyVirt.configured = true ∧ readyVirt.comp.en = false ∧ readyVirt.comp.fade = 0#8 ∧
    ([fone, two].length = 2 * (1#64).toNat ∧ [two, fone, fone, two].length = 2 * (2#64).toNat ∧
      (1#64).toNat + (2#64).toNat < 2 ^ 64) ∧
    (([] : List F64).length = 2 * (0#64).toNat ∧ (0#64).toNat + (1#64).toNat < 2 ^ 64) :=
  ⟨readyVirt_ok, rfl, rfl, rfl, by decide, by decide⟩

/-- `ACTIVE = 0` with the compressor off, and with its fade ending in the block. -/
theorem witness_ActiveZeroMeansSkipped :
    (∃ t r, exec (.process 1#64) (given ready [fone, two]) = .next t ∧ t.response = some r ∧ r.status = 0x00#8 ∧
      r.res = 0#64) ∧
    (∃ t r, exec (.process 1#64) (given { ready with comp := { ready.comp with fade := 1#8 } } [fone, two]) = .next t ∧
      t.response = some r ∧ r.status = 0x00#8 ∧ r.res = 0#64) ∧
    ready.masterEn = true ∧ ready.comp.fade = 0#8 := by
  refine ⟨?_, ?_, rfl, rfl⟩
  · exact ⟨_, _, next_after (by decide +kernel), rfl, rfl, by decide +kernel⟩
  · exact ⟨_, _, next_after (by decide +kernel), rfl, rfl, by decide +kernel⟩

/-! ### Witnesses: the filters -/

theorem witness_IdentitySetPasses :
    Biquad.reset.cur = Coeffs.identity ∧ isFinite Biquad.reset.w1 = true ∧ isFinite Biquad.reset.w2 = true ∧
    (isFinite fone = true ∧ isZero fone = false) ∧ (isFinite negZero = true ∧ isZero negZero = true) := by
  decide +kernel

/-- No call left, one, and two. -/
theorem witness_RampEndsAtTarget :
    BiquadSettled Biquad.reset ∧ BiquadSettled rampingShelves.k0 ∧ (2#32).toNat ≤ [fone, fone].length ∧
    b7.rem.toNat = 0 ∧ (bqInstall Coeffs.identity 1#32 b7).rem.toNat = 1 ∧
    2 ≤ (bqInstall Coeffs.identity 2#32 b7).rem.toNat :=
  ⟨fun _ => rfl, nofun, by decide, by decide, by decide, by decide⟩

theorem witness_InstallStartsFromCurrent :
    (4#32 : BitVec 32) ≠ 0#32 ∧ (1#32 : BitVec 32) ≠ 0#32 ∧ Biquad.reset.cur.a0 = ⟨0x3FF0000000000000#64⟩ ∧
    (⟨two, posZero, posZero, posZero, posZero⟩ : Coeffs).a0 = ⟨0x4000000000000000#64⟩ := by
  decide

theorem witness_ZeroStaysZero :
    b7.rem = 0#32 ∧ FiniteSet b7.cur ∧ isZero b7.w1 = true ∧ isZero b7.w2 = true ∧
    (∀ x ∈ [posZero, negZero], isZero x = true) :=
  ⟨rfl, ⟨by decide +kernel, by decide +kernel, by decide +kernel, by decide +kernel, by decide +kernel⟩,
    by decide +kernel, by decide +kernel, by decide +kernel⟩

/-- In both shelf modes. -/
theorem witness_FlatShelfIsUnity :
    ∀ mode ∈ [ShelfParamMode.slope, ShelfParamMode.q],
      let c : Config := { testConfig with shelfParamMode := mode }
      let t := designHighshelf c (eqCorner 0) r48000 fone posZero posZero
      c.bqDesign = .cookbook ∧ c.shelfParamMode = mode ∧ isZero (fcos c (designW0 (eqCorner 0) r48000)) = false ∧ isFinite t.d0 = true ∧ isFinite t.d1 = true ∧
      isFinite t.d2 = true ∧ isZero t.d0 = false := by
  intro mode _
  exact ⟨rfl, rfl, by revert mode; decide +kernel⟩

/-- A sine that is zero, at `w0 = +0.0` and at another argument. -/
theorem witness_FlatShelfIsUnity_zero_sine :
    testConfig.bqDesign = .cookbook ∧ isZero (fsin testConfig (fdiv (fmul (fmul two piConst) posZero) r48000)) = true ∧
    (let c : Config := { testConfig with sin := fun _ => negZero }
     c.bqDesign = .cookbook ∧ isZero (fsin c (fdiv (fmul (fmul two piConst) f1000) r48000)) = true) := by
  refine ⟨rfl, by decide +kernel, rfl, by decide +kernel⟩

/-- R105's corner case: `fsinh` of an infinity is not finite, whatever the record's function says. -/
theorem test_fsinh_not_finite :
    fsinh testConfig ⟨0x7FF0000000000000#64⟩ = ⟨0x7FF0000000000000#64⟩ ∧
    isFinite (fsinh testConfig ⟨0x7FF8000000000001#64⟩) = false ∧ fsinh testConfig two = fone := by
  decide +kernel

/-- Cursors at both ends of a line; and lengths 0 and 3 from a configure. -/
theorem witness_DelayLaw :
    let bounded (d : DelayLine) : Prop := d.cur.toNat < max d.len.toNat 1
    bounded DelayLine.reset ∧ bounded ⟨3#32, 0#32, []⟩ ∧ bounded ⟨3#32, 2#32, [(1, fone)]⟩ ∧
    (dlConfigure ten virtDelayA DelayLine.reset).len = 0#32 ∧ (dlConfigure hundred virtDelayA DelayLine.reset).len = 3#32 := by
  decide +kernel

theorem witness_DelayCallFrame :
    (memWf DelayLine.reset.buf = true ∧ DelayLine.reset.len = 0#32) ∧
    (memWf [(0, fone), (2, two)] = true ∧ (⟨3#32, 2#32, [(0, fone), (2, two)]⟩ : DelayLine).len ≠ 0#32) := by
  decide +kernel

/-- Two frames through lines of three words and of one: one cell of the first is left alone. -/
theorem witness_ProcessDelayFrame :
    (∃ s t r, StateOk s ∧ exec (.process 2#64) s = .next t ∧ t.response = some r ∧ r.status = 0x00#8 ∧ s.virt.en = true ∧
      s.virt.dly = readyVirt.virt.dly) ∧
    (∀ i, i < (2#64).toNat → 1 ≠ ((0#32).toNat + i * ((3#32).toNat - 1)) % (3#32).toNat) := by
  constructor
  · obtain ⟨t, r, h⟩ := answers_next (status := 0x00#8)
      (r := exec (.process 2#64) (given readyVirt [fone, two, two, fone])) (by decide +kernel)
    exact ⟨_, t, r, given_ok readyVirt_ok _, h.1, h.2.1, h.2.2, rfl, rfl⟩
  · decide

/-- The last clause at fifteen inputs; the impulse at the last coefficient and right after it. -/
theorem witness_FirForgetsAfterSixteen :
    Fir16.reset.c = ({ Fir16.reset with h := Vector.replicate 16 fone } : Fir16).c ∧
    15 ≤ (List.replicate 15 two).length ∧ Fir16.reset.h = Vector.replicate 16 posZero ∧
    (∀ a ∈ Fir16.reset.c.toList, isFinite a = true) ∧ Fir16.reset.c.toList[15]? = some posZero ∧
    isZero posZero = true ∧ Fir16.reset.c.toList[0]? = some fone ∧ isZero fone = false :=
  ⟨rfl, by decide, rfl, by decide +kernel, by decide, by decide +kernel, by decide, by decide +kernel⟩

theorem witness_FirAndUserGainUntouched : ∃ t, exec (.process 1#64) (given readyVirt [fone, two]) = .next t :=
  ⟨_, next_after (by decide +kernel)⟩

/-! ### Witnesses: the effects -/

/-- The fade at both ends, up and down. -/
theorem witness_CompressorFadeStep :
    let fading (en : Bool) (fade : BitVec 8) : State := { ready with comp := { ready.comp with en := en, fade := fade } }
    (∃ t r, exec (.process 0#64) (fading true 0#8) = .next t ∧ t.response = some r ∧ r.status = 0x00#8) ∧
    (∃ t r, exec (.process 0#64) (fading true 100#8) = .next t ∧ t.response = some r ∧ r.status = 0x00#8) ∧
    (∃ t r, exec (.process 0#64) (fading false 1#8) = .next t ∧ t.response = some r ∧ r.status = 0x00#8) ∧
    (∃ t r, exec (.process 0#64) (fading false 0#8) = .next t ∧ t.response = some r ∧ r.status = 0x00#8) :=
  ⟨answers_next (by decide +kernel), answers_next (by decide +kernel), answers_next (by decide +kernel),
    answers_next (by decide +kernel)⟩

/-- C8: a gain to be raised, one to be lowered, and one that stands (where both clauses ask for 0). -/
theorem witness_SlewNeverOvershoots :
    compUnity.toInt ≤ wantedGain compUnity (2 ^ 25) ∧ wantedGain compUnity (2 ^ 23) ≤ compUnity.toInt ∧
    wantedGain compUnity (2 ^ 24) = compUnity.toInt ∧ slew compUnity compUnity (2 ^ 24) r48000 4 = 0 := by
  decide +kernel

/-- One frame with the fade starting, and none with the fade at its end. -/
theorem witness_CompressorGainRamp :
    (let s := given { ready with comp := { ready.comp with en := true } } [fone, two]
     StateOk s ∧ s.configured = true ∧ s.sin.length = 2 * (1#64).toNat ∧ s.comp.en = true ∧ s.bass.en = false ∧
     s.virt.en = false ∧ s.eq.en = false ∧ s.comp.fade.toNat < 100) ∧
    (let s := given { ready with comp := { ready.comp with en := true, fade := 100#8 } } []
     StateOk s ∧ s.configured = true ∧ s.sin.length = 2 * (0#64).toNat ∧ s.comp.en = true ∧ s.bass.en = false ∧
     s.virt.en = false ∧ s.eq.en = false ∧ ¬s.comp.fade.toNat < 100) :=
  ⟨⟨{ ready_ok with comp := { ready_ok.comp with } }, rfl, rfl, rfl, rfl, rfl, rfl, by decide⟩,
    ⟨{ ready_ok with comp := { ready_ok.comp with fade := by decide } }, rfl, rfl, rfl, rfl, rfl, rfl, by decide⟩⟩

/-- A level within R145, and the samples 1.0 and +0.0. -/
theorem witness_RatioOneIsTransparent :
    (∀ x : F64, testConfig.compSoften x =
      fsub x (fmul (fmul (fdiv x ⟨0x4059000000000000#64⟩) (fdiv x ⟨0x4059000000000000#64⟩)) ⟨0x4049000000000000#64⟩)) ∧
    isFinite (levelDb testConfig 250003) = true ∧
    |toReal fone| < 2 ^ 1000 ∧ isFinite fone = true ∧ |toReal posZero| < 2 ^ 1000 ∧ isFinite posZero = true := by
  refine ⟨fun x => ?_, by decide +kernel, ?_, by decide +kernel, ?_, by decide +kernel⟩
  · show softenQuadratic x = _
    unfold softenQuadratic
    rw [compWindowDepth_eq]
    rfl
  · rw [toReal_one, abs_one]
    exact one_lt_pow₀ (by norm_num) (by norm_num)
  · rw [toReal_zero, abs_zero]
    positivity

theorem witness_BassAddsOneBoostToBoth :
    let s := given { ready with bass := { ready.bass with en := true } } [fone, two]
    s.configured = true ∧ s.sin.length = 2 * (1#64).toNat ∧ s.comp.en = false ∧ s.comp.fade = 0#8 ∧ s.bass.en = true ∧
    s.virt.en = false ∧ s.eq.en = false := by
  decide

theorem witness_EqFadeNeverFalls : ∃ t, exec (.process 1#64) (given readyEq [fone, two]) = .next t :=
  ⟨_, next_after (by decide +kernel)⟩

/-- A frame with the refresh due and one without; an estimate that falls and one that follows the level; a block of no
frame, one of exactly the frames up to the refresh, and one of one more. -/
theorem witness_EqRefreshCadence :
    (State.reset.eq.next = 0#32 ∧ readyEq.eq.next ≠ 0#32) ∧
    (isFinite fifty = true ∧ isFinite (fneg hundred) = true ∧ isFinite (loudnessDb testConfig 0#64 480#32) = true ∧
      fgt fifty (fadd (loudnessDb testConfig 0#64 480#32) eqDecayStep) = true ∧
      fgt (fneg hundred) (fadd (loudnessDb testConfig 0#64 480#32) eqDecayStep) = false) ∧
    let block (k : Nat) : State := given readyEq (List.replicate (2 * k) fone)
    (∀ k, StateOk (block k)) ∧ readyEq.eq.en = true ∧
    (∃ t r, exec (.process 0#64) (block 0) = .next t ∧ t.response = some r ∧ r.status = 0x00#8) ∧
    (∃ t r, exec (.process 3#64) (block 3) = .next t ∧ t.response = some r ∧ r.status = 0x00#8) ∧
    (∃ t r, exec (.process 4#64) (block 4) = .next t ∧ t.response = some r ∧ r.status = 0x00#8) :=
  ⟨⟨rfl, by decide⟩, by decide +kernel, fun _ => given_ok readyEq_ok _, rfl, answers_next (by decide +kernel),
    answers_next (by decide +kernel), answers_next (by decide +kernel)⟩

theorem witness_FlatEqualizerDesigns :
    State.reset.eq.band = ⟨0#64, 0#64, 0#64, 0#64, 0#64, 0#64⟩ ∧ State.reset.eq.loudEn = false := by
  decide

theorem witness_VirtSilentAtStrengthZero :
    let v := readyVirt.virt
    v.level = 0#64 ∧ isFinite (dlOut v.dly.l (virtFeed v fone v.last.r)) = true ∧
    isFinite (dlOut v.dly.r (virtFeed v fone v.last.l)) = true ∧ isFinite fone = true ∧ isZero fone = false ∧
    |toReal fone| < 2 ^ 1023 ∧ FiniteSet v.loc.cur ∧ isZero v.loc.w1 = true ∧ isZero v.loc.w2 = true ∧
    isZero posZero = true ∧ |toReal posZero| < 2 ^ 1023 ∧ v.deep = false := by
  refine ⟨rfl, by decide +kernel, by decide +kernel, by decide +kernel, by decide +kernel, ?_,
    ⟨by decide +kernel, by decide +kernel, by decide +kernel, by decide +kernel, by decide +kernel⟩, by decide +kernel,
    by decide +kernel, by decide +kernel, ?_, rfl⟩
  · rw [toReal_one, abs_one]
    exact one_lt_pow₀ (by norm_num) (by norm_num)
  · rw [toReal_zero, abs_zero]
    positivity

/-! ### Witnesses: arithmetic -/

theorem toReal_negOne : toReal (fneg fone) = -1 := by
  rw [toReal_of (m := -(2 ^ 52)) (e := -52) (by decide +kernel) (by decide +kernel)]; norm_num

theorem witness_SumAndProductRound :
    isFinite fone = true ∧ isFinite (fneg fone) = true ∧ toReal fone + toReal (fneg fone) = 0 ∧
    toReal fone - toReal fone = 0 := by
  refine ⟨by decide +kernel, by decide +kernel, ?_, sub_self _⟩
  rw [toReal_one, toReal_negOne]; norm_num

theorem witness_QuotientAndRootRound :
    isFinite fone = true ∧ isFinite three = true ∧ isZero three = false ∧ isFinite two = true ∧ fsign two = false := by
  decide +kernel

theorem witness_ConversionsTruncateAndRound :
    fge posZero posZero = true ∧ isNaN ⟨0x7FF8000000000001#64⟩ = true ∧ isInf ⟨0xFFF0000000000000#64⟩ = true ∧
    (isFinite fone = true ∧ 0 ≤ toReal fone) ∧ (isFinite (fneg fone) = true ∧ toReal (fneg fone) ≤ 0) ∧
    |(2 : Int) ^ 53| ≤ 2 ^ 53 := by
  refine ⟨by decide +kernel, by decide +kernel, by decide +kernel, ⟨by decide +kernel, ?_⟩, ⟨by decide +kernel, ?_⟩,
    by decide⟩
  · rw [toReal_one]; norm_num
  · rw [toReal_negOne]; norm_num

theorem witness_ComparisonsFollowTheReals :
    isFinite fone = true ∧ isFinite negZero = true ∧ isNaN ⟨0x7FF8000000000001#64⟩ = true := by
  decide +kernel

end Sys2Proof.Tests
end

section
/-! Rounding (R12): a rounded word is a nearest one, ties to even.

The magnitude bits are compared as real numbers through `magReal`.  The encoding `(q + 1074) * 2^52 + r` of `roundPack`
stands for `r * 2^q`, and every magnitude is a multiple of `2^q` or lies below `2^52 * 2^q`; so the integer `r` nearest
to `v / 2^q` gives the magnitude nearest to `v`. -/

namespace Sys2Proof.Machine

/-! ### The parts of a word -/

theorem toNat_ofParts_bits (neg : Bool) {mag : Nat} (h : mag < 2 ^ 63) :
    (ofParts neg mag).bits.toNat = if neg then 2 ^ 63 + mag else mag := by
  unfold ofParts
  rw [BitVec.toNat_ofNat]
  split_ifs <;> omega

theorem fmag_ofParts (neg : Bool) {mag : Nat} (h : mag < 2 ^ 63) : fmag (ofParts neg mag) = mag := by
  rw [fmag, toNat_ofParts_bits neg h]
  split_ifs <;> omega

theorem fsign_ofParts (neg : Bool) {mag : Nat} (h : mag < 2 ^ 63) : fsign (ofParts neg mag) = neg := by
  rw [fsign, BitVec.msb_eq_decide, toNat_ofParts_bits neg h]
  cases neg
  · simpa using h
  · simp

theorem ofParts_fsign_fmag (x : F64) : ofParts (fsign x) (fmag x) = x := by
  obtain ⟨b⟩ := x
  have hb := b.isLt
  simp only [ofParts, fsign, fmag, F64.mk.injEq, BitVec.msb_eq_decide]
  apply BitVec.eq_of_toNat_eq
  rw [BitVec.toNat_ofNat]
  split_ifs with hs
  · rw [decide_eq_true_eq] at hs
    omega
  · rw [decide_eq_true_eq] at hs
    omega

theorem fsign_fneg (x : F64) : fsign (fneg x) = !fsign x := by
  have h : (0x8000000000000000#64).msb = true := by decide
  rw [fsign, fneg, BitVec.msb_xor, h, Bool.xor_true, fsign]

theorem fmag_fneg (x : F64) : fmag (fneg x) = fmag x := by
  have hbits : (x.bits ^^^ 0x8000000000000000#64).setWidth 63 = x.bits.setWidth 63 := by
    rw [BitVec.setWidth_xor]
    simp
  have htoNat := congrArg BitVec.toNat hbits
  rwa [BitVec.toNat_setWidth, BitVec.toNat_setWidth] at htoNat

theorem isFinite_iff {x : F64} : isFinite x = true ↔ fmag x < infMag := decide_eq_true_iff

theorem isInf_of_isFinite {x : F64} (h : isFinite x = true) : isInf x = false := by
  rw [isFinite_eq] at h
  simp_all

theorem isFinite_fneg {x : F64} (h : isFinite x = true) : isFinite (fneg x) = true := by
  rwa [isFinite_iff, fmag_fneg, ← isFinite_iff]

theorem infMag_lt : infMag < 2 ^ 63 := by decide

/-! ### The real number of a word -/

theorem magReal_fmag (x : F64) : magReal (fmag x) = (fsig x : ℝ) * (2 : ℝ) ^ fexpo x := rfl

theorem toReal_ofParts (neg : Bool) {mag : Nat} (h : mag < 2 ^ 63) :
    toReal (ofParts neg mag) = if neg then -magReal mag else magReal mag := by
  rw [toReal_eq, fsign_ofParts neg h, fmag_ofParts neg h]

theorem toReal_fneg (x : F64) : toReal (fneg x) = -toReal x := by
  rw [toReal_eq, toReal_eq, fsign_fneg, fmag_fneg]
  cases fsign x <;> simp

theorem abs_toReal (x : F64) : |toReal x| = magReal (fmag x) := by
  rw [toReal_eq]
  split_ifs
  · rw [abs_neg, abs_of_nonneg (magReal_nonneg _)]
  · rw [abs_of_nonneg (magReal_nonneg _)]

theorem fsig_lt (x : F64) : fsig x < 2 ^ 53 := by
  unfold fsig
  split_ifs <;> omega

theorem fsig_mod_two (x : F64) : fsig x % 2 = fmag x % 2 := by
  unfold fsig
  split_ifs <;> omega

theorem fsig_eq_zero_iff (x : F64) : fsig x = 0 ↔ fmag x = 0 := by
  unfold fsig
  split_ifs <;> omega

theorem pow_toNat_sub_mul_zpow {a e : ℤ} (h : e ≤ a) : (2 : ℝ) ^ (a - e).toNat * (2 : ℝ) ^ e = (2 : ℝ) ^ a := by
  rw [← zpow_natCast, ← zpow_add₀ two_ne_zero, Int.toNat_of_nonneg (by omega), sub_add_cancel]

/-! ### Magnitudes on the grid of a last bit -/

/-- The encoding of `roundPack`, for normal and subnormal results and for the carry into the next exponent. -/
theorem magReal_encode {q : ℤ} {r : Nat} (hq : -1074 ≤ q) (hr : r ≤ 2 ^ 53) (hn : q = -1074 ∨ 2 ^ 52 ≤ r) :
    magReal ((q + 1074).toNat * 2 ^ 52 + r) = (r : ℝ) * (2 : ℝ) ^ q := by
  obtain ⟨k, rfl⟩ : ∃ k : Nat, q = (k : ℤ) - 1074 := ⟨(q + 1074).toNat, by omega⟩
  rw [sub_add_cancel, Int.toNat_natCast]
  unfold magReal
  rcases lt_or_ge r (2 ^ 52) with h52 | h52
  · obtain rfl : k = 0 := by omega
    have hd : (0 * 2 ^ 52 + r) / 2 ^ 52 = 0 := by omega
    rw [hd, if_pos rfl]
    norm_num
  rcases hr.lt_or_eq with h53 | rfl
  · have hd : (k * 2 ^ 52 + r) / 2 ^ 52 = k + 1 := by omega
    have hm : 2 ^ 52 + (k * 2 ^ 52 + r) % 2 ^ 52 = r := by omega
    rw [hd, hm, if_neg (by omega), max_eq_left (by omega)]
    congr 2
    push_cast
    ring
  · have hd : (k * 2 ^ 52 + 2 ^ 53) / 2 ^ 52 = k + 2 := by omega
    have hm : 2 ^ 52 + (k * 2 ^ 52 + 2 ^ 53) % 2 ^ 52 = 2 ^ 52 := by omega
    have he : (((k + 2 : Nat) : ℤ) - 1075) = 1 + ((k : ℤ) - 1074) := by push_cast; ring
    rw [hd, hm, if_neg (by omega), max_eq_left (by omega), he, zpow_add₀ two_ne_zero]
    push_cast
    ring

theorem exists_magReal_eq (n : Nat) :
    ∃ s : Nat, s < 2 ^ 53 ∧ magReal n = (s : ℝ) * (2 : ℝ) ^ (((max (n / 2 ^ 52) 1 : Nat) : ℤ) - 1075) :=
  ⟨_, by split_ifs <;> omega, rfl⟩

/-- Seen on the grid of `2^q`, a magnitude is a grid point or lies below the normal numbers of that grid. -/
theorem magReal_grid (n : Nat) (q : ℤ) :
    (∃ j : Nat, magReal n = (j : ℝ) * (2 : ℝ) ^ q) ∨ -1074 < q ∧ magReal n < 2 ^ 52 * (2 : ℝ) ^ q := by
  obtain ⟨s, hs, hn⟩ := exists_magReal_eq n
  set E : ℤ := ((max (n / 2 ^ 52) 1 : Nat) : ℤ) - 1075 with hE
  rcases le_or_gt q E with h | h
  · refine .inl ⟨s * 2 ^ (E - q).toNat, ?_⟩
    rw [hn, ← pow_toNat_sub_mul_zpow h]
    push_cast
    ring
  · refine .inr ⟨by omega, ?_⟩
    have hs' : (s : ℝ) < 2 ^ 53 := by exact_mod_cast hs
    calc magReal n = (s : ℝ) * (2 : ℝ) ^ E := hn
      _ < 2 ^ 53 * (2 : ℝ) ^ E := by gcongr
      _ = 2 ^ 52 * (2 : ℝ) ^ (1 + E) := by rw [zpow_add₀ two_ne_zero]; ring
      _ ≤ 2 ^ 52 * (2 : ℝ) ^ q := by gcongr; exacts [one_le_two, by omega]

theorem magReal_infMag : magReal infMag = 2 ^ 54 * (2 : ℝ) ^ (970 : ℤ) := by
  have h : infMag = ((971 : ℤ) + 1074).toNat * 2 ^ 52 + 2 ^ 53 := by decide
  rw [h, magReal_encode (by norm_num) le_rfl (by norm_num), (by norm_num : (971 : ℤ) = 1 + 970),
    zpow_one_add₀ two_ne_zero]
  push_cast
  ring

/-- The greatest finite magnitude. -/
theorem magReal_infMag_pred : magReal (infMag - 1) = (2 ^ 54 - 2) * (2 : ℝ) ^ (970 : ℤ) := by
  have h : infMag - 1 = ((971 : ℤ) + 1074).toNat * 2 ^ 52 + (2 ^ 53 - 1) := by decide
  rw [h, magReal_encode (by norm_num) (by norm_num) (by norm_num), (by norm_num : (971 : ℤ) = 1 + 970),
    zpow_one_add₀ two_ne_zero]
  push_cast
  ring

/-! ### Nearest, ties to even -/

/-- `r` is the integer nearest to `w`, the even one of two. -/
def NearestEven (r : Nat) (w : ℝ) : Prop := |(r : ℝ) - w| ≤ 1 / 2 ∧ (|(r : ℝ) - w| = 1 / 2 → r % 2 = 0)

/-- `n` is the magnitude nearest to `v` (infinity taken for the next one after the greatest finite one), the even one of
two. -/
def NearestMag (n : Nat) (v : ℝ) : Prop :=
  ∀ k : Nat, |magReal n - v| ≤ |magReal k - v| ∧ (|magReal k - v| = |magReal n - v| → k ≠ n → n % 2 = 0)

theorem nearestEven_self (r : Nat) : NearestEven r r := by
  constructor <;> norm_num

/-- No integer is nearer, and one as near as an odd `r` is `r` itself. -/
theorem NearestEven.le_abs {r : Nat} {w : ℝ} (h : NearestEven r w) (j : Nat) :
    |(r : ℝ) - w| ≤ |(j : ℝ) - w| ∧ (|(j : ℝ) - w| = |(r : ℝ) - w| → j ≠ r → r % 2 = 0) := by
  obtain ⟨hle, heven⟩ := h
  rcases eq_or_ne j r with rfl | hjr
  · exact ⟨le_rfl, fun _ h => absurd rfl h⟩
  · have hone : (1 : ℝ) ≤ |(j : ℝ) - r| := by
      have : (1 : ℤ) ≤ |(j : ℤ) - r| := Int.one_le_abs (by omega)
      exact_mod_cast this
    have htri : |(j : ℝ) - r| ≤ |(j : ℝ) - w| + |(r : ℝ) - w| := by
      rw [abs_sub_comm (r : ℝ) w]
      exact abs_sub_le _ _ _
    exact ⟨by linarith, fun heq _ => heven (by linarith)⟩

/-- The integer nearest to `w`, encoded at the last bit `q`, is the magnitude nearest to `w * 2^q`. -/
theorem nearestMag_encode {q : ℤ} {r : Nat} {w : ℝ} (hq : -1074 ≤ q) (hlo : q = -1074 ∨ 2 ^ 52 ≤ w) (hhi : w < 2 ^ 53)
    (h : NearestEven r w) : NearestMag ((q + 1074).toNat * 2 ^ 52 + r) (w * (2 : ℝ) ^ q) := by
  obtain ⟨hge, hle⟩ := abs_le.1 h.1
  have hr53 : r ≤ 2 ^ 53 := by
    have : (r : ℝ) < (2 ^ 53 + 1 : Nat) := by push_cast; linarith
    exact Nat.lt_succ_iff.1 (by exact_mod_cast this)
  have hr52 : q = -1074 ∨ 2 ^ 52 ≤ r := hlo.imp_right fun hw => by
    have : ((2 ^ 52 : Nat) : ℝ) < (r + 1 : Nat) := by push_cast; linarith
    exact Nat.lt_succ_iff.1 (by exact_mod_cast this)
  have hp : (0 : ℝ) < (2 : ℝ) ^ q := by positivity
  have hscale (a : ℝ) : |a * (2 : ℝ) ^ q - w * (2 : ℝ) ^ q| = |a - w| * (2 : ℝ) ^ q := by
    rw [← sub_mul, abs_mul, abs_of_pos hp]
  intro k
  rw [magReal_encode hq hr53 hr52, hscale]
  rcases magReal_grid k q with ⟨j, hj⟩ | ⟨hne, hlt⟩
  · obtain ⟨hnear, heven⟩ := h.le_abs j
    rw [hj, hscale]
    refine ⟨by gcongr, fun heq hk => ?_⟩
    have hjr : j ≠ r := fun hjr => hk (magReal_strictMono.injective
      (by rw [hj, hjr, magReal_encode hq hr53 hr52]))
    have := heven (mul_right_cancel₀ hp.ne' heq) hjr
    omega
  · have hw : 2 ^ 52 ≤ w := hlo.resolve_left hne.ne'
    have hnear := (h.le_abs (2 ^ 52)).1
    rw [Nat.cast_pow, Nat.cast_ofNat, abs_of_nonpos (sub_nonpos.2 hw)] at hnear
    have hstrict : |(r : ℝ) - w| * (2 : ℝ) ^ q < |magReal k - w * (2 : ℝ) ^ q| :=
      calc |(r : ℝ) - w| * (2 : ℝ) ^ q ≤ -(2 ^ 52 - w) * (2 : ℝ) ^ q := by gcongr
        _ = w * (2 : ℝ) ^ q - 2 ^ 52 * (2 : ℝ) ^ q := by ring
        _ < w * (2 : ℝ) ^ q - magReal k := by linarith
        _ ≤ |magReal k - w * (2 : ℝ) ^ q| := by rw [abs_sub_comm]; exact le_abs_self _
    exact ⟨hstrict.le, fun heq => absurd heq hstrict.ne'⟩

/-- The nearest magnitude is a finite one exactly below half a unit beyond the greatest word. -/
theorem NearestMag.lt_infMag_iff {n : Nat} {v : ℝ} (h : NearestMag n v) :
    n < infMag ↔ v < (2 ^ 54 - 1) * (2 : ℝ) ^ (970 : ℤ) := by
  have hp : (0 : ℝ) < (2 : ℝ) ^ (970 : ℤ) := by positivity
  have hinf := magReal_infMag
  have hmax := magReal_infMag_pred
  generalize (2 : ℝ) ^ (970 : ℤ) = U at *
  obtain ⟨hnearInf, hevenInf⟩ := h infMag
  obtain ⟨hnearMax, -⟩ := h (infMag - 1)
  generalize hb : magReal infMag = b at *
  generalize ha : magReal (infMag - 1) = a at *
  constructor
  · intro hn
    by_contra hv
    have hle : magReal n ≤ a := ha ▸ magReal_strictMono.monotone (by omega)
    rw [abs_sub_comm (magReal n), abs_of_nonneg (by linarith : 0 ≤ v - magReal n)] at hnearInf hevenInf
    have heq := hnearInf.antisymm' (abs_le.2 ⟨by linarith, by linarith⟩)
    have hge : a ≤ magReal n := by
      rcases abs_cases (b - v) with ⟨hab, _⟩ | ⟨hab, _⟩ <;> linarith
    have hmaxn : n = infMag - 1 := magReal_strictMono.injective (by rw [ha]; exact hle.antisymm hge)
    have hodd : (infMag - 1) % 2 = 1 := by decide
    have heven := hevenInf heq (by omega)
    omega
  · intro hv
    by_contra hn
    have hle : b ≤ magReal n := hb ▸ magReal_strictMono.monotone (by omega)
    rw [abs_of_nonneg (by linarith : 0 ≤ magReal n - v)] at hnearMax
    rcases abs_cases (a - v) with ⟨hab, _⟩ | ⟨hab, _⟩ <;> linarith

/-- The distance of a word from a number of a given sign: that of the magnitudes, or their sum across 0. -/
theorem abs_toReal_sub (z : F64) (neg : Bool) {v : ℝ} (hv : 0 ≤ v) :
    |toReal z - if neg then -v else v| = if fsign z = neg then |magReal (fmag z) - v| else magReal (fmag z) + v := by
  have hz := magReal_nonneg (fmag z)
  rw [toReal_eq]
  cases neg <;> cases fsign z <;> simp only [if_true, if_false, Bool.false_eq_true, reduceCtorEq]
  · rw [abs_sub_comm, abs_of_nonneg (by linarith)]; ring
  · rw [abs_of_nonneg (by linarith)]; ring
  · rw [neg_sub_neg, abs_sub_comm]

/-- The word of the nearest magnitude is the correctly rounded one. -/
theorem NearestMag.roundsTo {n : Nat} {v : ℝ} (h : NearestMag n v) (hv : 0 ≤ v) (neg : Bool) :
    RoundsTo (ofParts neg (min n infMag)) (if neg then -v else v) := by
  have hmin : min n infMag < 2 ^ 63 := lt_of_le_of_lt (min_le_right _ _) infMag_lt
  have habs : |if neg then -v else v| = v := by cases neg <;> simp [abs_of_nonneg hv]
  refine ⟨fun hlt => ?_, fun hge => ?_⟩
  · rw [habs, ← h.lt_infMag_iff] at hlt
    rw [min_eq_left hlt.le] at hmin ⊢
    have hr : |toReal (ofParts neg n) - if neg then -v else v| = |magReal n - v| := by
      rw [abs_toReal_sub _ _ hv, fsign_ofParts neg hmin, if_pos rfl, fmag_ofParts neg hmin]
    refine ⟨isFinite_iff.2 (by rwa [fmag_ofParts neg hmin]), fun z _ => ?_⟩
    rw [fsig_mod_two, fmag_ofParts neg hmin, hr, abs_toReal_sub z neg hv]
    split_ifs with hs
    · refine ⟨(h (fmag z)).1, fun heq hne => (h (fmag z)).2 heq fun hn => hne ?_⟩
      rw [toReal_eq, toReal_ofParts neg hmin, hs, hn]
    · obtain ⟨hzero, heven⟩ := h 0
      rw [magReal_zero, zero_sub, abs_neg, abs_of_nonneg hv] at hzero heven
      have hz := magReal_nonneg (fmag z)
      refine ⟨by linarith, fun heq hne => heven (by linarith) fun hn => hne ?_⟩
      have hz0 : magReal (fmag z) = 0 := by linarith
      rw [toReal_eq, toReal_ofParts neg hmin, hz0, ← hn, magReal_zero]
      simp
  · rw [habs] at hge
    have hn : ¬n < infMag := fun hn => not_lt.2 hge (h.lt_infMag_iff.1 hn)
    have hpos : 0 < v := lt_of_lt_of_le (by norm_num) hge
    rw [min_eq_right (not_lt.1 hn)]
    cases neg
    · simp [not_lt.2 hv]
    · simp [hpos]

/-! ### `roundPack` -/

/-- The integer `m` stands for the real number `u`: as itself, or, with enough bits for it not to matter to a rounding,
by a last bit that says only that `u` is not the integer before nor the one after (the sticky bit of `fdiv`, `fsqrt`). -/
def StandsFor (m : Nat) (u : ℝ) : Prop :=
  u = m ∨ 2 ^ 55 ≤ m ∧ m % 2 = 1 ∧ (m : ℝ) - 1 < u ∧ u < m + 1

/-- A quotient or a root, cut to its integer part, with the sticky bit. -/
theorem standsFor_sticky {n : Nat} {y : ℝ} {p : Prop} [Decidable p] (hn : 2 ^ 54 ≤ n) (hle : (n : ℝ) ≤ y)
    (hlt : y < n + 1) (hp : p ↔ y = n) : StandsFor (2 * n + if p then 0 else 1) (2 * y) := by
  split_ifs with h
  · left
    rw [hp.1 h]
    push_cast
    ring
  · have hne : (n : ℝ) < y := lt_of_le_of_ne hle fun he => h (hp.2 he.symm)
    refine .inr ⟨by omega, by omega, ?_, ?_⟩ <;> push_cast <;> linarith

theorem StandsFor.nonneg {m : Nat} {u : ℝ} (h : StandsFor m u) : 0 ≤ u := by
  rcases h with rfl | ⟨hm, _, hlo, _⟩
  · positivity
  · have : ((2 ^ 55 : Nat) : ℝ) ≤ m := by exact_mod_cast hm
    push_cast at this
    linarith

/-- `u` and the `m` that stands for it lie between the same two powers of 2. -/
theorem StandsFor.log2_bounds {m : Nat} {u : ℝ} (h : StandsFor m u) (hm : m ≠ 0) :
    (2 : ℝ) ^ Nat.log2 m ≤ u ∧ u < (2 : ℝ) ^ (Nat.log2 m + 1) := by
  have hlo : 2 ^ Nat.log2 m ≤ m := (Nat.le_log2 hm).1 le_rfl
  have hhi : m < 2 ^ (Nat.log2 m + 1) := (Nat.log2_lt hm).1 (Nat.lt_succ_self _)
  rcases h with rfl | ⟨h55, hodd, hgt, hlt⟩
  · exact ⟨by exact_mod_cast hlo, by exact_mod_cast hhi⟩
  · have hlog : 55 ≤ Nat.log2 m := (Nat.le_log2 hm).2 h55
    have heven : 2 ∣ 2 ^ Nat.log2 m := dvd_pow_self 2 (by omega)
    have hlo' : ((2 ^ Nat.log2 m : Nat) : ℝ) + 1 ≤ m := by exact_mod_cast (by omega : 2 ^ Nat.log2 m + 1 ≤ m)
    have hhi' : (m : ℝ) + 1 ≤ (2 ^ (Nat.log2 m + 1) : Nat) := by exact_mod_cast hhi
    push_cast at hlo' hhi'
    exact ⟨by linarith, by linarith⟩

theorem nearestEven_div_iff {r : Nat} {u P : ℝ} (hP : 0 < P) :
    NearestEven r (u / P) ↔ 2 * |r * P - u| ≤ P ∧ (2 * |r * P - u| = P → r % 2 = 0) := by
  have h : |(r : ℝ) - u / P| = |r * P - u| / P := by
    rw [← abs_of_pos hP, ← abs_div, abs_of_pos hP, sub_div, mul_div_cancel_right₀ _ hP.ne']
  rw [NearestEven, h, div_le_div_iff₀ hP two_pos, div_eq_div_iff hP.ne' two_ne_zero, one_mul, mul_comm (2 : ℝ)]

/-- The part of `u` that a shift by `k` drops lies on the same side of half a unit as the bits dropped from `m`. -/
theorem StandsFor.dropped {m k : Nat} {u : ℝ} (h : StandsFor m u) (hk : u ≠ m → 2 ≤ k) :
    ∃ y : ℝ, u = (m / 2 ^ k : Nat) * 2 ^ k + y ∧
      (2 ^ k < 2 * (m % 2 ^ k) → 2 ^ k < 2 * y ∧ y ≤ 2 ^ k) ∧
      (2 * (m % 2 ^ k) < 2 ^ k → 0 ≤ y ∧ 2 * y < 2 ^ k) ∧
      (2 * (m % 2 ^ k) = 2 ^ k → 2 * y = 2 ^ k) := by
  have hlt : m % 2 ^ k < 2 ^ k := Nat.mod_lt _ (by positivity)
  have hdiv : (m : ℝ) = (m / 2 ^ k : Nat) * 2 ^ k + (m % 2 ^ k : Nat) := by
    exact_mod_cast (Nat.div_add_mod' m (2 ^ k)).symm
  have hy : u - (m / 2 ^ k : Nat) * 2 ^ k = u - m + (m % 2 ^ k : Nat) := by linarith
  refine ⟨u - (m / 2 ^ k : Nat) * 2 ^ k, by ring, ?_⟩
  rw [hy]
  rcases eq_or_ne u m with rfl | hne
  · rw [sub_self, zero_add]
    exact ⟨fun hf => ⟨by exact_mod_cast hf, by exact_mod_cast hlt.le⟩,
      fun hf => ⟨by positivity, by exact_mod_cast hf⟩, fun hf => by exact_mod_cast hf⟩
  · obtain ⟨_, hodd, hgt, hlt'⟩ := h.resolve_left hne
    -- the dropped bits are odd and half a unit is even, so they differ by 1 at least
    have h4 : 2 ^ 2 ∣ 2 ^ k := pow_dvd_pow 2 (hk hne)
    have hfodd : m % 2 ^ k % 2 = 1 := by
      rw [Nat.mod_mod_of_dvd _ ((dvd_pow_self 2 two_ne_zero).trans h4), hodd]
    generalize m % 2 ^ k = f at *
    generalize hP : 2 ^ k = P at *
    have hPr : (2 : ℝ) ^ k = P := by exact_mod_cast congrArg Nat.cast hP
    rw [hPr]
    have hf0 : (1 : ℝ) ≤ f := by exact_mod_cast (by omega : 1 ≤ f)
    have hfP : (f : ℝ) + 1 ≤ P := by exact_mod_cast hlt
    refine ⟨fun hf => ?_, fun hf => ?_, fun hf => by omega⟩
    · have : (P : ℝ) + 2 ≤ 2 * f := by exact_mod_cast (by omega : P + 2 ≤ 2 * f)
      exact ⟨by linarith, by linarith⟩
    · have : 2 * (f : ℝ) + 2 ≤ P := by exact_mod_cast (by omega : 2 * f + 2 ≤ P)
      exact ⟨by linarith, by linarith⟩

/-- Dropping bits rounds to nearest, ties to even; a sticky bit among them decides as the number it stands for. -/
theorem nearestEven_roundShift {m k : Nat} {u : ℝ} (h : StandsFor m u) (hk : u ≠ m → 2 ≤ k) :
    NearestEven (roundShift m k) (u / 2 ^ k) := by
  obtain ⟨y, rfl, habove, hbelow, htie⟩ := h.dropped hk
  rw [nearestEven_div_iff (by positivity), roundShift]
  generalize m / 2 ^ k = d at *
  have hup : ((d + 1 : Nat) : ℝ) * 2 ^ k - (d * 2 ^ k + y) = 2 ^ k - y := by push_cast; ring
  have hdown : (d : ℝ) * 2 ^ k - (d * 2 ^ k + y) = -y := by ring
  rcases lt_trichotomy (2 ^ k) (2 * (m % 2 ^ k)) with hf | hf | hf
  · obtain ⟨hlo, hhi⟩ := habove hf
    rw [if_pos (.inl hf), hup, abs_of_nonneg (by linarith)]
    exact ⟨by linarith, fun heq => by linarith⟩
  · have hy := htie hf.symm
    have hpos : (0 : ℝ) < 2 ^ k := by positivity
    split_ifs with hd
    · rw [hup, abs_of_nonneg (by linarith)]
      exact ⟨by linarith, fun _ => by omega⟩
    · rw [hdown, abs_neg, abs_of_nonneg (by linarith)]
      exact ⟨by linarith, fun _ => by omega⟩
  · obtain ⟨hlo, hhi⟩ := hbelow hf
    rw [if_neg (by omega), hdown, abs_neg, abs_of_nonneg hlo]
    exact ⟨by linarith, fun heq => by linarith⟩

/-- Kept at the last bit `q`, the bits of `m * 2^e` are the integer nearest to the number they stand for. -/
theorem nearestEven_keptBits {m : Nat} {u : ℝ} {e q : ℤ} (h : StandsFor m u) (hq : u ≠ m → e + 2 ≤ q) :
    NearestEven (if q ≤ e then m * 2 ^ (e - q).toNat else roundShift m (q - e).toNat) (u * (2 : ℝ) ^ (e - q)) := by
  split_ifs with hqe
  · obtain rfl : u = m := by
      by_contra hne
      have := hq hne
      omega
    have hexact : (m : ℝ) * (2 : ℝ) ^ (e - q) = (m * 2 ^ (e - q).toNat : Nat) := by
      rw [Nat.cast_mul, Nat.cast_pow, Nat.cast_ofNat, ← zpow_natCast, Int.toNat_of_nonneg (by omega)]
    rw [hexact]
    exact nearestEven_self _
  · have hshift : u * (2 : ℝ) ^ (e - q) = u / 2 ^ (q - e).toNat := by
      rw [← zpow_natCast, Int.toNat_of_nonneg (by omega), div_eq_mul_inv, ← zpow_neg, neg_sub]
    rw [hshift]
    refine nearestEven_roundShift h fun hne => ?_
    have := hq hne
    omega

/-- The magnitude `roundPack` computes, before the overflow to infinity. -/
def packMag (m : Nat) (e : ℤ) : Nat :=
  if m = 0 then 0
  else
    let q : ℤ := max (e + (Nat.log2 m : ℤ) - 52) (-1074)
    (q + 1074).toNat * 2 ^ 52 + if q ≤ e then m * 2 ^ (e - q).toNat else roundShift m (q - e).toNat

theorem roundPack_eq (neg : Bool) (m : Nat) (e : ℤ) : roundPack neg m e = ofParts neg (min (packMag m e) infMag) := by
  unfold roundPack packMag
  split_ifs <;> rfl

theorem nearestMag_zero : NearestMag 0 0 := by
  intro k
  rw [magReal_zero, sub_zero, abs_zero]
  exact ⟨abs_nonneg _, fun _ _ => rfl⟩

/-- `packMag` is the magnitude nearest to the number `m * 2^e` stands for. -/
theorem nearestMag_packMag {m : Nat} {u : ℝ} (h : StandsFor m u) (e : ℤ) : NearestMag (packMag m e) (u * (2 : ℝ) ^ e) := by
  unfold packMag
  split_ifs with hm
  · obtain rfl : u = 0 := by
      rcases h with rfl | ⟨h55, -⟩
      · exact_mod_cast hm
      · omega
    rw [zero_mul]
    exact nearestMag_zero
  obtain ⟨hlo, hhi⟩ := h.log2_bounds hm
  generalize hq : max (e + (Nat.log2 m : ℤ) - 52) (-1074) = q
  have hscale : u * (2 : ℝ) ^ e = u * (2 : ℝ) ^ (e - q) * (2 : ℝ) ^ q := by
    rw [mul_assoc, ← zpow_add₀ two_ne_zero, sub_add_cancel]
  rw [hscale]
  refine nearestMag_encode (by omega) ?_ ?_ ?_
  · refine or_iff_not_imp_left.2 fun hne => ?_
    calc (2 : ℝ) ^ 52 = 2 ^ Nat.log2 m * (2 : ℝ) ^ (e - q) := by
          rw [← zpow_natCast, ← zpow_natCast, ← zpow_add₀ two_ne_zero]
          congr 1
          omega
      _ ≤ u * (2 : ℝ) ^ (e - q) := by gcongr
  · calc u * (2 : ℝ) ^ (e - q) < 2 ^ (Nat.log2 m + 1) * (2 : ℝ) ^ (e - q) := by gcongr
      _ = (2 : ℝ) ^ (((Nat.log2 m + 1 : Nat) : ℤ) + (e - q)) := by rw [zpow_add₀ two_ne_zero, zpow_natCast]
      _ ≤ (2 : ℝ) ^ (53 : ℤ) := zpow_le_zpow_right₀ one_le_two (by omega)
      _ = 2 ^ 53 := by norm_num
  · have hlog : u ≠ m → 55 ≤ Nat.log2 m := fun hne => (Nat.le_log2 hm).2 (h.resolve_left hne).1
    refine nearestEven_keptBits h fun hne => ?_
    have := hlog hne
    omega

/-- `roundPack` rounds correctly the number that its arguments stand for (R12). -/
theorem roundsTo_roundPack (neg : Bool) {m : Nat} {u : ℝ} (h : StandsFor m u) (e : ℤ) :
    RoundsTo (roundPack neg m e) (if neg then -(u * (2 : ℝ) ^ e) else u * (2 : ℝ) ^ e) := by
  rw [roundPack_eq]
  exact (nearestMag_packMag h e).roundsTo (mul_nonneg h.nonneg (by positivity)) neg

theorem fsign_roundPack (neg : Bool) (m : Nat) (e : ℤ) : fsign (roundPack neg m e) = neg := by
  rw [roundPack_eq, fsign_ofParts _ (lt_of_le_of_lt (min_le_right _ _) infMag_lt)]

theorem roundsTo_zero (neg : Bool) : RoundsTo (ofParts neg 0) 0 := by
  simpa using nearestMag_zero.roundsTo le_rfl neg

/-- A number that a finite word stands for rounds to that number. -/
theorem RoundsTo.toReal_eq {r z : F64} (h : RoundsTo r (toReal z)) (hz : isFinite z = true) :
    isFinite r = true ∧ toReal r = toReal z := by
  have hlt : |toReal z| < (2 ^ 54 - 1) * (2 : ℝ) ^ (970 : ℤ) := by
    have hle : magReal (fmag z) ≤ magReal (infMag - 1) :=
      magReal_strictMono.monotone (by have := isFinite_iff.1 hz; omega)
    rw [magReal_infMag_pred] at hle
    rw [abs_toReal]
    exact hle.trans_lt (mul_lt_mul_of_pos_right (by norm_num) (by positivity))
  obtain ⟨hfin, hnear⟩ := h.1 hlt
  have hz0 := (hnear z hz).1
  rw [sub_self, abs_zero, abs_nonpos_iff, sub_eq_zero] at hz0
  exact ⟨hfin, hz0⟩

/-- Up to `2^53` every integer is a word. -/
theorem exists_magReal_eq_natCast {m : Nat} (hm : m ≤ 2 ^ 53) : ∃ n < infMag, magReal n = m := by
  rcases eq_or_ne m 0 with rfl | h0
  · exact ⟨0, by decide, by rw [magReal_zero, Nat.cast_zero]⟩
  have hlo : 2 ^ Nat.log2 m ≤ m := (Nat.le_log2 h0).1 le_rfl
  have hhi : m < 2 ^ (Nat.log2 m + 1) := (Nat.log2_lt h0).1 (Nat.lt_succ_self _)
  generalize Nat.log2 m = l at *
  have hr52 : 2 ^ 52 ≤ m * 2 ^ (52 - l) :=
    calc 2 ^ 52 ≤ 2 ^ (l + (52 - l)) := Nat.pow_le_pow_right two_pos (by omega)
      _ = 2 ^ l * 2 ^ (52 - l) := pow_add ..
      _ ≤ m * 2 ^ (52 - l) := Nat.mul_le_mul_right _ hlo
  have hr53 : m * 2 ^ (52 - l) ≤ 2 ^ 53 := by
    rcases le_or_gt l 52 with hl | hl
    · calc m * 2 ^ (52 - l) ≤ 2 ^ (l + 1) * 2 ^ (52 - l) := Nat.mul_le_mul_right _ hhi.le
        _ = 2 ^ (l + 1 + (52 - l)) := (pow_add ..).symm
        _ = 2 ^ 53 := by congr 1; omega
    · rwa [Nat.sub_eq_zero_of_le hl.le, pow_zero, mul_one]
  have hq : (-1074 : ℤ) ≤ -(52 - l : Nat) := by omega
  refine ⟨_, ?_, (magReal_encode hq hr53 (.inr hr52)).trans ?_⟩
  · have hinf : infMag = 2047 * 2 ^ 52 := by decide
    omega
  · rw [zpow_neg, zpow_natCast, Nat.cast_mul, Nat.cast_pow, Nat.cast_ofNat, mul_inv_cancel_right₀ (by positivity)]

end Sys2Proof.Machine
end

section
/-! The operations of R12 and R15 on finite words, each with the case of its definition that finite words take. -/

namespace Sys2Proof.Machine

/-! ### Sums and differences -/

theorem addWith_of_isFinite (nan : F64) {x y : F64} (hx : isFinite x = true) (hy : isFinite y = true) :
    addWith nan x y = addFinite x y := by
  simp [addWith, isNaN_of_isFinite hx, isNaN_of_isFinite hy, isInf_of_isFinite hx, isInf_of_isFinite hy]

theorem toReal_scaled (x : F64) {e : ℤ} (h : e ≤ fexpo x) :
    ((fsigned x * 2 ^ (fexpo x - e).toNat : ℤ) : ℝ) * (2 : ℝ) ^ e = toReal x := by
  rw [toReal, ← pow_toNat_sub_mul_zpow h]
  push_cast
  ring

/-- The integer `addFinite` rounds, at the smaller of the two exponents. -/
def alignedSum (x y : F64) : ℤ :=
  fsigned x * 2 ^ (fexpo x - min (fexpo x) (fexpo y)).toNat + fsigned y * 2 ^ (fexpo y - min (fexpo x) (fexpo y)).toNat

theorem addFinite_eq (x y : F64) :
    addFinite x y =
      if alignedSum x y = 0 then ofParts (fsign x && fsign y) 0
      else roundPack (decide (alignedSum x y < 0)) (alignedSum x y).natAbs (min (fexpo x) (fexpo y)) := rfl

theorem alignedSum_mul_zpow (x y : F64) :
    (alignedSum x y : ℝ) * (2 : ℝ) ^ min (fexpo x) (fexpo y) = toReal x + toReal y := by
  rw [alignedSum, Int.cast_add, add_mul, toReal_scaled x (min_le_left _ _), toReal_scaled y (min_le_right _ _)]

theorem alignedSum_eq_zero_iff (x y : F64) : alignedSum x y = 0 ↔ toReal x + toReal y = 0 := by
  rw [← alignedSum_mul_zpow, mul_eq_zero_iff_right (by positivity), Int.cast_eq_zero]

/-- An integer at any exponent, rounded by `roundPack`, is correctly rounded. -/
theorem roundsTo_roundPack_int (t e : ℤ) : RoundsTo (roundPack (decide (t < 0)) t.natAbs e) ((t : ℝ) * (2 : ℝ) ^ e) := by
  have h := roundsTo_roundPack (decide (t < 0)) (m := t.natAbs) (.inl rfl) e
  have habs : (t.natAbs : ℝ) = |(t : ℝ)| := by rw [Nat.cast_natAbs, Int.cast_abs]
  rw [habs] at h
  rcases lt_or_ge t 0 with ht | ht
  · have htr : (t : ℝ) < 0 := by exact_mod_cast ht
    simpa [ht, abs_of_neg htr] using h
  · have htr : (0 : ℝ) ≤ t := by exact_mod_cast ht
    simpa [not_lt.2 ht, abs_of_nonneg htr] using h

theorem roundsTo_addFinite (x y : F64) : RoundsTo (addFinite x y) (toReal x + toReal y) := by
  rw [addFinite_eq]
  split_ifs with h
  · rw [(alignedSum_eq_zero_iff x y).1 h]
    exact roundsTo_zero _
  · rw [← alignedSum_mul_zpow]
    exact roundsTo_roundPack_int _ _

/-- The sign of an exact zero sum (IEEE 754): negative only of two negative words. -/
theorem addFinite_of_add_eq_zero {x y : F64} (h : toReal x + toReal y = 0) :
    addFinite x y = if fsign x && fsign y then negZero else posZero := by
  rw [addFinite_eq, if_pos ((alignedSum_eq_zero_iff x y).2 h)]
  split_ifs with hs
  · rw [hs]; rfl
  · rw [Bool.eq_false_iff.2 hs]; rfl

theorem fadd_of_isFinite {x y : F64} (hx : isFinite x = true) (hy : isFinite y = true) : fadd x y = addFinite x y :=
  addWith_of_isFinite _ hx hy

theorem fsub_of_isFinite {x y : F64} (hx : isFinite x = true) (hy : isFinite y = true) :
    fsub x y = addFinite x (fneg y) :=
  addWith_of_isFinite _ hx (isFinite_fneg hy)

/-! ### Products -/

/-- The product of two words by that of their magnitudes. -/
theorem toReal_mul_toReal (x y : F64) :
    toReal x * toReal y =
      if fsign x != fsign y then -(magReal (fmag x) * magReal (fmag y)) else magReal (fmag x) * magReal (fmag y) := by
  rw [toReal_eq, toReal_eq]
  cases fsign x <;> cases fsign y <;> simp

theorem fmul_of_isFinite {x y : F64} (hx : isFinite x = true) (hy : isFinite y = true) :
    fmul x y = roundPack (fsign x != fsign y) (fsig x * fsig y) (fexpo x + fexpo y) := by
  simp [fmul, isNaN_of_isFinite hx, isNaN_of_isFinite hy, isInf_of_isFinite hx, isInf_of_isFinite hy]

theorem magReal_mul_magReal (x y : F64) :
    magReal (fmag x) * magReal (fmag y) = ((fsig x * fsig y : Nat) : ℝ) * (2 : ℝ) ^ (fexpo x + fexpo y) := by
  rw [magReal_fmag, magReal_fmag, zpow_add₀ two_ne_zero]
  push_cast
  ring

theorem roundsTo_fmul {x y : F64} (hx : isFinite x = true) (hy : isFinite y = true) :
    RoundsTo (fmul x y) (toReal x * toReal y) := by
  rw [fmul_of_isFinite hx hy, toReal_mul_toReal, magReal_mul_magReal]
  exact roundsTo_roundPack _ (.inl rfl) _

/-- Settles O57: the sum and the product are integers at a power of 2, and `roundPack` rounds them. -/
theorem sumAndProductRound : Obligations.SumAndProductRound := by
  intro x y hx hy
  rw [fadd_of_isFinite hx hy, fsub_of_isFinite hx hy, sub_eq_add_neg, ← toReal_fneg]
  refine ⟨roundsTo_addFinite x y, roundsTo_addFinite x (fneg y), roundsTo_fmul hx hy, ?_, addFinite_of_add_eq_zero,
    fun h => ?_⟩
  · rw [fmul_of_isFinite hx hy, fsign_roundPack]
  · rw [addFinite_of_add_eq_zero h, fsign_fneg]

/-! ### Quotients -/

theorem toReal_div_toReal (x y : F64) :
    toReal x / toReal y =
      if fsign x != fsign y then -(magReal (fmag x) / magReal (fmag y)) else magReal (fmag x) / magReal (fmag y) := by
  rw [toReal_eq, toReal_eq]
  cases fsign x <;> cases fsign y <;> simp [neg_div, div_neg]

theorem fdiv_of_isFinite {x y : F64} (hx : isFinite x = true) (hy : isFinite y = true) (hy0 : isZero y = false) :
    fdiv x y = roundPack (fsign x != fsign y)
      (2 * (fsig x * 2 ^ 120 / fsig y) + if fsig x * 2 ^ 120 % fsig y = 0 then 0 else 1) (fexpo x - fexpo y - 121) := by
  simp [fdiv, isNaN_of_isFinite hx, isNaN_of_isFinite hy, isInf_of_isFinite hx, isInf_of_isFinite hy, hy0]

/-- The quotient's integer part with its sticky bit stands for the quotient. -/
theorem standsFor_quotient {a b : Nat} (hb : 0 < b) (hb53 : b < 2 ^ 53) :
    StandsFor (2 * (a * 2 ^ 120 / b) + if a * 2 ^ 120 % b = 0 then 0 else 1) (2 * ((a * 2 ^ 120 : Nat) / b : ℝ)) := by
  rcases Nat.eq_zero_or_pos a with rfl | ha
  · left
    simp
  have hbr : (0 : ℝ) < b := by exact_mod_cast hb
  generalize hm : a * 2 ^ 120 = m
  have hdm : b * (m / b) + m % b = m := Nat.div_add_mod m b
  have hmod : m % b < b := Nat.mod_lt _ hb
  refine standsFor_sticky ?_ ?_ ?_ ?_
  · rw [Nat.le_div_iff_mul_le hb, ← hm]
    calc 2 ^ 54 * b ≤ 2 ^ 54 * 2 ^ 53 := Nat.mul_le_mul_left _ hb53.le
      _ ≤ 1 * 2 ^ 120 := by norm_num
      _ ≤ a * 2 ^ 120 := Nat.mul_le_mul_right _ ha
  · exact Nat.cast_div_le
  · rw [div_lt_iff₀ hbr]
    exact_mod_cast Nat.lt_mul_of_div_lt (Nat.lt_succ_self _) hb
  · rw [div_eq_iff hbr.ne']
    constructor
    · intro h0
      exact_mod_cast (by rw [Nat.div_mul_cancel (Nat.dvd_of_mod_eq_zero h0)] : m = m / b * b)
    · intro he
      have : m = m / b * b := by exact_mod_cast he
      rw [mul_comm] at this
      omega

theorem magReal_div_magReal (x y : F64) :
    magReal (fmag x) / magReal (fmag y) =
      2 * ((fsig x * 2 ^ 120 : Nat) / fsig y : ℝ) * (2 : ℝ) ^ (fexpo x - fexpo y - 121) := by
  rw [magReal_fmag, magReal_fmag, zpow_sub₀ two_ne_zero, zpow_sub₀ two_ne_zero, mul_div_mul_comm]
  push_cast
  ring

theorem roundsTo_fdiv {x y : F64} (hx : isFinite x = true) (hy : isFinite y = true) (hy0 : isZero y = false) :
    RoundsTo (fdiv x y) (toReal x / toReal y) := by
  have hsig : 0 < fsig y := Nat.pos_of_ne_zero fun h => by
    rw [fsig_eq_zero_iff] at h
    simp [isZero, h] at hy0
  rw [fdiv_of_isFinite hx hy hy0, toReal_div_toReal, magReal_div_magReal]
  exact roundsTo_roundPack _ (standsFor_quotient hsig (fsig_lt y)) _

/-! ### Square roots -/

/-- Bit by bit, the search keeps the root between `r` and `r + 2^k`. -/
theorem isqrt_eq_sqrt (m : Nat) : ∀ k r : Nat, r * r ≤ m → m < (r + 2 ^ k) * (r + 2 ^ k) → isqrt m k r = Nat.sqrt m
  | 0, r, hlo, hhi => Nat.eq_sqrt.2 ⟨hlo, hhi⟩
  | k + 1, r, hlo, hhi => by
    rw [isqrt]
    refine isqrt_eq_sqrt m k _ ?_ ?_
    · split_ifs with h
      · exact h
      · exact hlo
    · split_ifs with h
      · rwa [add_assoc, ← two_mul, ← pow_succ']
      · exact not_le.1 h

/-- The significand `fsqrt` takes the root of: scaled by an even power of 2 at least `2^120`, from an even exponent. -/
def rootArg (x : F64) : Nat := fsig x * 2 ^ (fexpo x % 2).toNat * 4 ^ 60

theorem rootArg_lt (x : F64) : rootArg x < 4 ^ 90 := by
  have hodd : 2 ^ (fexpo x % 2).toNat ≤ 2 ^ 1 := Nat.pow_le_pow_right two_pos (by omega)
  calc fsig x * 2 ^ (fexpo x % 2).toNat * 4 ^ 60 ≤ 2 ^ 53 * 2 ^ 1 * 4 ^ 60 := by
        gcongr
        exact (fsig_lt x).le
    _ < 4 ^ 90 := by norm_num

theorem fsqrt_of_isFinite {x : F64} (hx : isFinite x = true) (hs : fsign x = false) (h0 : isZero x = false) :
    fsqrt x = roundPack false
      (2 * Nat.sqrt (rootArg x) + if Nat.sqrt (rootArg x) * Nat.sqrt (rootArg x) = rootArg x then 0 else 1)
      ((fexpo x - fexpo x % 2) / 2 - 61) := by
  have hroot : isqrt (rootArg x) 90 0 = Nat.sqrt (rootArg x) :=
    isqrt_eq_sqrt _ _ _ (Nat.zero_le _) (by rw [zero_add, ← mul_pow]; exact rootArg_lt x)
  simp only [fsqrt, isNaN_of_isFinite hx, isInf_of_isFinite hx, hs, h0, Bool.false_eq_true, if_false]
  rw [← rootArg, hroot]

/-- The root's integer part with its sticky bit stands for the root. -/
theorem standsFor_sqrt {m : Nat} (hm : 4 ^ 60 ≤ m) :
    StandsFor (2 * Nat.sqrt m + if Nat.sqrt m * Nat.sqrt m = m then 0 else 1) (2 * Real.sqrt m) := by
  have hmr : (0 : ℝ) ≤ m := Nat.cast_nonneg m
  refine standsFor_sticky ?_ Real.nat_sqrt_le_real_sqrt ?_ ?_
  · exact Nat.le_sqrt.2 (le_trans (by norm_num) hm)
  · exact Real.real_sqrt_lt_nat_sqrt_succ
  · rw [Real.sqrt_eq_iff_mul_self_eq hmr (Nat.cast_nonneg _)]
    exact_mod_cast eq_comm

theorem sqrt_magReal (x : F64) :
    Real.sqrt (magReal (fmag x)) = 2 * Real.sqrt (rootArg x) * (2 : ℝ) ^ ((fexpo x - fexpo x % 2) / 2 - 61) := by
  have hexp : fexpo x = ((fexpo x % 2).toNat : ℤ) + 2 * ((fexpo x - fexpo x % 2) / 2) := by omega
  generalize (fexpo x - fexpo x % 2) / 2 = j at *
  have hmag : magReal (fmag x) = rootArg x * (2 * (2 : ℝ) ^ (j - 61)) ^ 2 := by
    have hsplit : (2 : ℝ) ^ fexpo x = 2 ^ (fexpo x % 2).toNat * ((2 : ℝ) ^ j) ^ 2 := by
      refine (congrArg ((2 : ℝ) ^ ·) hexp).trans ?_
      rw [zpow_add₀ two_ne_zero, zpow_natCast, mul_comm 2 j, zpow_mul]
      rfl
    rw [magReal_fmag, hsplit, rootArg, zpow_sub₀ two_ne_zero]
    push_cast
    ring
  rw [hmag, Real.sqrt_mul (Nat.cast_nonneg _), Real.sqrt_sq (by positivity)]
  ring

theorem roundsTo_fsqrt {x : F64} (hx : isFinite x = true) (hs : fsign x = false) :
    RoundsTo (fsqrt x) (Real.sqrt (toReal x)) := by
  have hval : toReal x = magReal (fmag x) := by rw [toReal_eq, hs, if_neg Bool.false_ne_true]
  rw [hval]
  cases h0 : isZero x
  · have hpos : 1 ≤ fsig x := Nat.one_le_iff_ne_zero.2 fun h => by
      rw [fsig_eq_zero_iff] at h
      simp [isZero, h] at h0
    have hm : 4 ^ 60 ≤ rootArg x := Nat.le_mul_of_pos_left _ (Nat.mul_pos hpos (by positivity))
    rw [fsqrt_of_isFinite hx hs h0, sqrt_magReal]
    simpa using roundsTo_roundPack false (standsFor_sqrt hm) ((fexpo x - fexpo x % 2) / 2 - 61)
  · have hzero : fmag x = 0 := by simpa [isZero] using h0
    have hroot : fsqrt x = x := by rw [fsqrt, isNaN_of_isFinite hx, h0]; rfl
    rw [hroot, ← ofParts_fsign_fmag x, hs, hzero, fmag_ofParts false (by norm_num), magReal_zero, Real.sqrt_zero]
    exact roundsTo_zero false

/-- Settles O58: the integer parts of the quotient and of the root, with their sticky bits, stand for them. -/
theorem quotientAndRootRound : Obligations.QuotientAndRootRound := by
  refine ⟨fun x y hx hy hy0 => ⟨roundsTo_fdiv hx hy hy0, ?_⟩, fun x hx hs => roundsTo_fsqrt hx hs⟩
  rw [fdiv_of_isFinite hx hy hy0, fsign_roundPack]

end Sys2Proof.Machine
end

section
/-! Conversions (R15), comparisons (R12) and the reset values (R38). -/

namespace Sys2Proof.Machine

/-! ### From a word to an integer -/

/-- The integer part of a magnitude, by shifting its significand. -/
theorem floor_magReal_fmag (x : F64) :
    ⌊magReal (fmag x)⌋ =
      (if 0 ≤ fexpo x then fsig x * 2 ^ (fexpo x).toNat else fsig x / 2 ^ (-fexpo x).toNat : Nat) := by
  rw [magReal_fmag]
  split_ifs with h
  · have hint : (fsig x : ℝ) * (2 : ℝ) ^ fexpo x = ((fsig x * 2 ^ (fexpo x).toNat : Nat) : ℝ) := by
      rw [Nat.cast_mul, Nat.cast_pow, Nat.cast_ofNat, ← zpow_natCast, Int.toNat_of_nonneg h]
    rw [hint, Int.floor_natCast]
  · have hdiv : (fsig x : ℝ) * (2 : ℝ) ^ fexpo x = (fsig x : ℝ) / ((2 ^ (-fexpo x).toNat : Nat) : ℝ) := by
      rw [Nat.cast_pow, Nat.cast_ofNat, ← zpow_natCast, Int.toNat_of_nonneg (by omega), zpow_neg, div_inv_eq_mul]
    rw [hdiv, ← Int.natCast_floor_eq_floor (by positivity), Nat.floor_div_eq_div]

/-- `d2i` of a finite word truncates toward zero and saturates. -/
theorem d2i_of_isFinite {x : F64} (hx : isFinite x = true) :
    d2i x = clampI64 (if fsign x then ⌈toReal x⌉ else ⌊toReal x⌋) := by
  rw [d2i, isNaN_of_isFinite hx, isInf_of_isFinite hx, toReal_eq]
  simp only [Bool.false_eq_true, if_false, ← floor_magReal_fmag]
  cases fsign x
  · rfl
  · simp only [if_true, Int.ceil_neg]

theorem clampI64_of_nonneg {v : Int} (h : 0 ≤ v) : clampI64 v = min v (2 ^ 63 - 1) := by
  unfold clampI64 i64Min i64Max
  omega

theorem clampI64_of_nonpos {v : Int} (h : v ≤ 0) : clampI64 v = max v (-(2 ^ 63)) := by
  unfold clampI64 i64Min i64Max
  omega

/-- With a sign, only a zero is not below 0; without, only a zero is not above it. -/
theorem toReal_eq_zero_of_fsign {x : F64} (h : if fsign x then 0 ≤ toReal x else toReal x ≤ 0) : toReal x = 0 := by
  have hmag := magReal_nonneg (fmag x)
  rw [toReal_eq] at h ⊢
  split_ifs at h ⊢ <;> linarith

theorem d2i_of_nonneg {x : F64} (hx : isFinite x = true) (h : 0 ≤ toReal x) : d2i x = min ⌊toReal x⌋ (2 ^ 63 - 1) := by
  rw [d2i_of_isFinite hx, ← clampI64_of_nonneg (Int.floor_nonneg.2 h)]
  split_ifs with hs
  · rw [toReal_eq_zero_of_fsign (x := x) (by rwa [if_pos hs]), Int.ceil_zero, Int.floor_zero]
  · rfl

theorem d2i_of_nonpos {x : F64} (hx : isFinite x = true) (h : toReal x ≤ 0) : d2i x = max ⌈toReal x⌉ (-(2 ^ 63)) := by
  rw [d2i_of_isFinite hx, ← clampI64_of_nonpos (Int.ceil_nonpos.2 h)]
  split_ifs with hs
  · rfl
  · rw [toReal_eq_zero_of_fsign (x := x) (by rwa [if_neg hs]), Int.ceil_zero, Int.floor_zero]

/-- An integer of the `i64` range converts to itself. -/
theorem d2i_of_toReal_eq {x : F64} (hx : isFinite x = true) {n : Int} (hn : |n| < 2 ^ 63) (h : toReal x = n) :
    d2i x = n := by
  obtain ⟨hlo, hhi⟩ := abs_lt.1 hn
  rw [d2i_of_isFinite hx, h, Int.ceil_intCast, Int.floor_intCast, ite_self]
  unfold clampI64 i64Min i64Max
  omega

theorem d2i_of_isNaN {x : F64} (h : isNaN x = true) : d2i x = 0 := by rw [d2i, if_pos h]

theorem d2i_of_isInf {x : F64} (h : isInf x = true) : d2i x = if fsign x then -(2 ^ 63) else 2 ^ 63 - 1 := by
  have hnan : isNaN x = false := by
    simp only [isInf, isNaN, decide_eq_true_eq, decide_eq_false_iff_not] at h ⊢
    omega
  rw [d2i, hnan, h]
  rfl

/-! ### From an integer to a word -/

theorem roundsTo_i2d (n : Int) : RoundsTo (i2d n) n := by
  simpa [i2d] using roundsTo_roundPack_int n 0

theorem exists_toReal_eq_intCast {n : Int} (hn : |n| ≤ 2 ^ 53) : ∃ z : F64, isFinite z = true ∧ toReal z = n := by
  obtain ⟨k, hk, hval⟩ := exists_magReal_eq_natCast (m := n.natAbs) (by rw [Int.abs_eq_natAbs] at hn; omega)
  have hk63 : k < 2 ^ 63 := hk.trans infMag_lt
  refine ⟨ofParts (decide (n < 0)) k, isFinite_iff.2 (by rwa [fmag_ofParts _ hk63]), ?_⟩
  rw [toReal_ofParts _ hk63, hval, Nat.cast_natAbs]
  rcases lt_or_ge n 0 with h | h
  · simp [h, abs_of_neg h]
  · simp [not_lt.2 h, abs_of_nonneg h]

theorem toReal_i2d {n : Int} (hn : |n| ≤ 2 ^ 53) : isFinite (i2d n) = true ∧ toReal (i2d n) = n := by
  obtain ⟨z, hz, hval⟩ := exists_toReal_eq_intCast hn
  rw [← hval]
  exact RoundsTo.toReal_eq (hval ▸ roundsTo_i2d n) hz

/-- Settles O59: `d2i` by the integer part of the significand, `i2d` by `roundPack`. -/
theorem conversionsTruncateAndRound : Obligations.ConversionsTruncateAndRound := by
  refine ⟨fun _ _ => rfl, fun _ => d2i_of_isNaN, fun _ => d2i_of_isInf,
    fun _ hx => ⟨d2i_of_nonneg hx, d2i_of_nonpos hx⟩, roundsTo_i2d, fun n hn => ?_⟩
  obtain ⟨hfin, hval⟩ := toReal_i2d hn
  exact ⟨hval, d2i_of_toReal_eq hfin (lt_of_le_of_lt hn (by norm_num)) hval⟩

/-! ### Comparisons -/

section
variable {x y : F64}

theorem flt_iff (hx : isNaN x = false) (hy : isNaN y = false) : flt x y = true ↔ toReal x < toReal y := by
  rw [flt, hx, hy, ← fkey_lt]
  exact decide_eq_true_iff

theorem fle_iff (hx : isNaN x = false) (hy : isNaN y = false) : fle x y = true ↔ toReal x ≤ toReal y := by
  rw [fle, hx, hy, ← fkey_le]
  exact decide_eq_true_iff

theorem feq_iff (hx : isNaN x = false) (hy : isNaN y = false) : feq x y = true ↔ toReal x = toReal y := by
  rw [feq, hx, hy, ← fkey_eq]
  exact decide_eq_true_iff

theorem fne_iff (hx : isNaN x = false) (hy : isNaN y = false) : fne x y = true ↔ toReal x ≠ toReal y := by
  rw [fne, Bool.not_eq_true', Bool.eq_false_iff, Ne, feq_iff hx hy]

/-- The guard the comparisons share fails with a NaN. -/
theorem not_isNaN_and_eq_false (h : isNaN x = true ∨ isNaN y = true) : (!isNaN x && !isNaN y) = false := by
  rcases h with h | h
  · rw [h]; rfl
  · rw [h, Bool.not_true, Bool.and_false]

theorem flt_of_isNaN (h : isNaN x = true ∨ isNaN y = true) : flt x y = false := by
  rw [flt, not_isNaN_and_eq_false h, Bool.false_and]

theorem fle_of_isNaN (h : isNaN x = true ∨ isNaN y = true) : fle x y = false := by
  rw [fle, not_isNaN_and_eq_false h, Bool.false_and]

theorem feq_of_isNaN (h : isNaN x = true ∨ isNaN y = true) : feq x y = false := by
  rw [feq, not_isNaN_and_eq_false h, Bool.false_and]

end

/-- Settles O60: the key of the comparisons orders words as their real numbers, and a NaN fails the guard. -/
theorem comparisonsFollowTheReals : Obligations.ComparisonsFollowTheReals := by
  constructor
  · intro x y hfx hfy
    have hx := isNaN_of_isFinite hfx
    have hy := isNaN_of_isFinite hfy
    exact ⟨flt_iff hx hy, fle_iff hx hy, flt_iff hy hx, fle_iff hy hx, feq_iff hx hy, fne_iff hx hy⟩
  · intro x y h
    exact ⟨flt_of_isNaN h, fle_of_isNaN h, flt_of_isNaN h.symm, fle_of_isNaN h.symm, feq_of_isNaN h, by
      rw [fne, feq_of_isNaN h]; rfl⟩

/-! ### Reset -/

/-- Two reset states differ only in what their records name (R9, R291, R31). -/
theorem resetWith_eq (c d : Config) :
    State.resetWith c =
      { State.resetWith d with
        masterEn := c.rst.masterEn
        comp := { (State.resetWith d).comp with ratio := c.rst.compRatio }
        bass := { (State.resetWith d).bass with strength := c.rst.bassStrength, q := bassQOf c.rst.bassStrength }
        eq := { (State.resetWith d).eq with loudRef := c.rst.eqLoudRef, loud := ⟨c.rst.eqLoud, c.rst.eqLoud⟩ }
        virt :=
          { (State.resetWith d).virt with
            strength := c.rst.virtStrength
            deep := virtDeepOf c.rst.virtStrength
            wide := virtWideOf c.rst.virtStrength
            level := virtLevelOf c c.rst.virtStrength } } := rfl

theorem resetWith_bass_q (c : Config) : (State.resetWith c).bass.q = bassQOf c.rst.bassStrength := rfl

/-- Settles O8: `BASS_Q` is the one register whose reset value is computed; the others are written in the reset state. -/
theorem resetValues : Obligations.ResetValues := by
  have hq : State.reset.bass.q = ⟨0x3FE0000000000000#64⟩ := by
    have hstrength : cfg.rst.bassStrength = 0#64 := rfl
    rw [State.reset, resetWith_bass_q, hstrength, bassQOf_zero]
  exact ⟨rfl, rfl, rfl, rfl, rfl, rfl, rfl, rfl, rfl, rfl, hq, rfl, rfl, rfl, rfl, rfl, rfl, rfl, rfl, rfl, rfl, rfl,
    rfl, rfl, rfl, rfl, rfl, rfl, rfl, rfl, rfl, rfl, rfl, fun c => resetWith_eq c cfg⟩

end Sys2Proof.Machine
end

section
/-! All a command and a step can do (R80, R90, R222, R240): one inversion lemma each, from which the laws about every
command are read off. -/

namespace Sys2Proof.Machine

/-! ### What a block keeps -/

/-- What the block step and each stage keep, a PROCESS keeps, whichever stages run. -/
theorem runBlock_keeps {c : Config} (P : State → Prop)
    (block : ∀ n s, P s → P { s with comp := (compBlock c s.rate n s.sin s.comp).1 })
    (comp : ∀ adj s, P s → P { s with comp := compFrameNext adj s.comp })
    (bass : ∀ s l r, P s → P { s with bass := (bassFrame s.bass l r).1 })
    (virt : ∀ s l r, P s → P { s with virt := (virtFrame c s.virt l r).1 })
    (eq : ∀ s l r, P s → P { s with eq := (eqFrame c s.rate s.eq l r).1 })
    (n : Nat) {s : State} (h : P s) : P (runBlock c n s).1 := by
  have compStage_keeps (g adj s l r) (h : P s) : P (compStage g adj s l r).1 := by
    unfold compStage; split; exacts [comp adj s h, h]
  have bassStage_keeps (g s l r) (h : P s) : P (bassStage g s l r).1 := by
    unfold bassStage; split; exacts [bass s l r h, h]
  have virtStage_keeps (g s l r) (h : P s) : P (virtStage c g s l r).1 := by
    unfold virtStage; split; exacts [virt s l r h, h]
  have eqStage_keeps (g s l r) (h : P s) : P (eqStage c g s l r).1 := by
    unfold eqStage; split; exacts [eq s l r h, h]
  have blockStep_keeps (g n s) (h : P s) : P (blockStep c g n s).1 := by
    unfold blockStep; split; exacts [block n s h, h]
  have chainFrame_keeps (g adj s l r) (h : P s) : P (chainFrame c g adj s l r).1 :=
    eqStage_keeps _ _ _ _ (virtStage_keeps _ _ _ _ (bassStage_keeps _ _ _ _ (compStage_keeps g adj s l r h)))
  exact runFrames_keeps P (chainFrame_keeps _ _) (blockStep_keeps _ _ _ h) _

/-! ### What a command writes -/

/-- The bands with the gain of band `k` replaced. -/
def Bands.set (b : Bands) (k : Fin 6) (v : BitVec 64) : Bands :=
  match k with
  | 0 => { b with b0 := v }
  | 1 => { b with b1 := v }
  | 2 => { b with b2 := v }
  | 3 => { b with b3 := v }
  | 4 => { b with b4 := v }
  | 5 => { b with b5 := v }

/-- All that a command can do to the registers before it answers: nothing (a GETP or a refusal), one legal knob and what
hangs on it (R222), a CONFIGURE (R221) or a PROCESS (R205) carried out. -/
inductive Effect (s : State) : State → Prop
  | nothing : Effect s s
  | masterEn (v : Bool) : Effect s { s with masterEn := v }
  | compEn (v : Bool) : Effect s { s with comp := { s.comp with en := v } }
  | compRatio {v : F64} (h : isFinite v = true ∧ legalRatio v = true) :
      Effect s { s with comp := { s.comp with ratio := v } }
  | bassEn (v : Bool) : Effect s { s with bass := { s.bass with en := v } }
  | bassStrength {v : BitVec 64} (h : 0 ≤ v.toInt ∧ v.toInt ≤ strengthMax) : Effect s (setBassStrength cfg v s)
  | bassFreq {v : F64} (h : isFinite v = true ∧ legalFreq v = true) : Effect s (setBassFreq cfg v s)
  | eqEn (v : Bool) : Effect s { s with eq := { s.eq with en := v } }
  | eqBand (k : Fin 6) {v : BitVec 64} (h : BandOk v) :
      Effect s { s with eq := { s.eq with band := s.eq.band.set k v } }
  | eqLoudEn (v : Bool) : Effect s { s with eq := { s.eq with loudEn := v } }
  | eqLoudRef {v : F64} (h : isFinite v = true) : Effect s { s with eq := { s.eq with loudRef := v } }
  | virtEn (v : Bool) : Effect s { s with virt := { s.virt with en := v } }
  | virtStrength {v : BitVec 64} (h : 0 ≤ v.toInt ∧ v.toInt ≤ strengthMax) : Effect s (setVirtStrength cfg v s)
  | configure {encsel : BitVec 8} {rate : F64} (hrate : legalRate rate = true) (henc : encsel ≤ encMax) :
      Effect s (configureEffects cfg encsel rate s)
  | process (n : Nat) : Effect s (runBlock cfg n s).1

/-- `t` is an effect on `s` and the answer to it. -/
def Answers (s t : State) : Prop := ∃ u, Effect s u ∧ ∃ status res sout, t = reply u status res sout

theorem answers_of_raise {code : BitVec 8} {s t : State} (h : raise code s = .next t) : Answers s t :=
  ⟨s, .nothing, _, _, _, raise_next h⟩

theorem answers_of_complete {res : BitVec 64} {s t : State} (h : complete res s = .next t) : Answers s t :=
  ⟨s, .nothing, _, _, _, complete_next h⟩

theorem answers_of_setKnob {α : Type} {i : Instr} {operand : Option α} {write : α → State → State} {s t : State}
    (hi : ∀ s, exec i s = setKnob operand write s) (h : exec i s = .next t)
    (hwrite : ∀ v, operand = some v → Effect s (write v s)) : Answers s t := by
  rw [hi] at h
  rcases setKnob_next h with ⟨-, rfl⟩ | ⟨v, hv, rfl⟩
  · exact ⟨s, .nothing, _, _, _, rfl⟩
  · exact ⟨_, hwrite v hv, _, _, _, rfl⟩

theorem answers_of_configureWith {ch encsel : BitVec 8} {opd : BitVec 64} {s t : State}
    (h : configureWith cfg ch encsel opd s = .next t) : Answers s t := by
  rcases configureWith_next h with ⟨e, -, rfl⟩ | ⟨hok, rfl⟩
  · exact ⟨s, .nothing, _, _, _, rfl⟩
  · obtain ⟨-, hrate, henc, -⟩ := configureError_none.1 hok
    exact ⟨_, .configure hrate henc, _, _, _, rfl⟩

theorem answers_of_processWith {n : BitVec 64} {s t : State} (h : processWith cfg n s = .next t) : Answers s t := by
  rcases processWith_next h with ⟨-, rfl⟩ | ⟨-, -, rfl⟩ | ⟨-, -, -, rfl⟩
  · exact ⟨s, .nothing, _, _, _, rfl⟩
  · exact ⟨s, .nothing, _, _, _, rfl⟩
  · exact ⟨_, .process n.toNat, _, _, _, rfl⟩

theorem legal_of_i64Operand {lo hi : Int} {opd v : BitVec 64} (h : i64Operand lo hi opd = some v) :
    lo ≤ v.toInt ∧ v.toInt ≤ hi := by
  obtain ⟨rfl, hlegal⟩ := i64Operand_eq_some.1 h
  exact hlegal

theorem legal_of_f64Operand {legal : F64 → Bool} {opd : BitVec 64} {v : F64} (h : f64Operand legal opd = some v) :
    isFinite v = true ∧ legal v = true := by
  obtain ⟨rfl, hlegal⟩ := f64Operand_eq_some.1 h
  exact hlegal

/-- All a command can answer. -/
theorem exec_next {i : Instr} {s t : State} (h : exec i s = .next t) : Answers s t := by
  cases i with
  | configure ch encsel opd => exact answers_of_configureWith h
  | process n => exact answers_of_processWith h
  | setpMasterEn opd => exact answers_of_setKnob (exec_setpMasterEn opd) h fun v _ => .masterEn v
  | setpCompEn opd => exact answers_of_setKnob (exec_setpCompEn opd) h fun v _ => .compEn v
  | setpCompRatio opd =>
    exact answers_of_setKnob (exec_setpCompRatio opd) h fun _ hv => .compRatio (legal_of_f64Operand hv)
  | setpBassEn opd => exact answers_of_setKnob (exec_setpBassEn opd) h fun v _ => .bassEn v
  | setpBassStrength opd =>
    exact answers_of_setKnob (exec_setpBassStrength opd) h fun _ hv => .bassStrength (legal_of_i64Operand hv)
  | setpBassFreq opd =>
    exact answers_of_setKnob (exec_setpBassFreq opd) h fun _ hv => .bassFreq (legal_of_f64Operand hv)
  | setpEqEn opd => exact answers_of_setKnob (exec_setpEqEn opd) h fun v _ => .eqEn v
  | setpEqBand0 opd =>
    exact answers_of_setKnob (exec_setpEqBand0 opd) h fun _ hv => .eqBand 0 (legal_of_i64Operand hv)
  | setpEqBand1 opd =>
    exact answers_of_setKnob (exec_setpEqBand1 opd) h fun _ hv => .eqBand 1 (legal_of_i64Operand hv)
  | setpEqBand2 opd =>
    exact answers_of_setKnob (exec_setpEqBand2 opd) h fun _ hv => .eqBand 2 (legal_of_i64Operand hv)
  | setpEqBand3 opd =>
    exact answers_of_setKnob (exec_setpEqBand3 opd) h fun _ hv => .eqBand 3 (legal_of_i64Operand hv)
  | setpEqBand4 opd =>
    exact answers_of_setKnob (exec_setpEqBand4 opd) h fun _ hv => .eqBand 4 (legal_of_i64Operand hv)
  | setpEqBand5 opd =>
    exact answers_of_setKnob (exec_setpEqBand5 opd) h fun _ hv => .eqBand 5 (legal_of_i64Operand hv)
  | setpEqLoudEn opd => exact answers_of_setKnob (exec_setpEqLoudEn opd) h fun v _ => .eqLoudEn v
  | setpEqLoudRef opd =>
    exact answers_of_setKnob (exec_setpEqLoudRef opd) h fun _ hv => .eqLoudRef (legal_of_f64Operand hv).1
  | setpVirtEn opd => exact answers_of_setKnob (exec_setpVirtEn opd) h fun v _ => .virtEn v
  | setpVirtStrength opd =>
    exact answers_of_setKnob (exec_setpVirtStrength opd) h fun _ hv => .virtStrength (legal_of_i64Operand hv)
  | getpMasterEn | getpCompEn | getpCompRatio | getpBassEn | getpBassStrength | getpBassFreq | getpEqEn | getpEqBand0
  | getpEqBand1 | getpEqBand2 | getpEqBand3 | getpEqBand4 | getpEqBand5 | getpEqLoudEn | getpEqLoudRef | getpVirtEn
  | getpVirtStrength => exact answers_of_complete h

/-! ### What a step does -/

theorem step_of_inbox_nil {s : State} (h : s.inbox = []) : step s = .next s := by
  rw [step, h]

theorem step_of_inbox_cons {s : State} {cmd : Command} {rest : List Command} (h : s.inbox = cmd :: rest) :
    step s = runCommand cmd (accept s cmd.sin rest) := by
  rw [step, h]

theorem runCommand_of_decode_ok {cmd : Command} {i : Instr} (h : decode cmd.cw cmd.opd = .ok i) (s : State) :
    runCommand cmd s = exec i s := by
  rw [runCommand, h]

theorem runCommand_of_decode_error {cmd : Command} {e : DecodeError} (h : decode cmd.cw cmd.opd = .error e)
    (s : State) : runCommand cmd s = raise eIllegalCmd s := by
  rw [runCommand, h]

theorem runCommand_next {cmd : Command} {s t : State} (h : runCommand cmd s = .next t) : Answers s t := by
  cases hd : decode cmd.cw cmd.opd with
  | ok i => exact exec_next (runCommand_of_decode_ok hd s ▸ h)
  | error e => exact answers_of_raise (runCommand_of_decode_error hd s ▸ h)

/-- All a step can answer: the state as it is, or the next command's effect and answer. -/
theorem step_next {s t : State} (h : step s = .next t) :
    t = s ∨ ∃ cmd rest, s.inbox = cmd :: rest ∧ Answers (accept s cmd.sin rest) t := by
  cases hin : s.inbox with
  | nil =>
    rw [step_of_inbox_nil hin, Host.Outcome.next.injEq] at h
    exact .inl h.symm
  | cons cmd rest =>
    rw [step_of_inbox_cons hin] at h
    exact .inr ⟨cmd, rest, rfl, runCommand_next h⟩

/-- Settles O6, by the equations of `step` and `runCommand`. -/
theorem stepRunsDecodedCommand : Obligations.StepRunsDecodedCommand :=
  ⟨fun _ _ _ _ hin hd => (step_of_inbox_cons hin).trans (runCommand_of_decode_ok hd _), fun _ => step_of_inbox_nil⟩

end Sys2Proof.Machine
end

section
/-! The invariant `StateOk`: reset has it (R38) and every step keeps it. -/

namespace Sys2Proof.Machine

/-! ### Reset -/

theorem biquadReset_settled : BiquadSettled Biquad.reset := fun _ => rfl

theorem biquadReset_atRest : AtRest Biquad.reset := ⟨biquadReset_settled, rfl⟩

theorem shelvesReset_ramp : ShelvesRamp 0#32 Shelves.reset :=
  ⟨biquadReset_settled, biquadReset_settled, biquadReset_settled, biquadReset_settled, biquadReset_settled,
    rfl, rfl, rfl, rfl, rfl⟩

theorem reset_compressorOk : CompressorOk State.reset.comp where
  fade := Nat.zero_le _
  ratio := by decide
  user := rfl
  bpL := biquadReset_atRest
  bpR := biquadReset_atRest

theorem reset_bassOk : BassOk State.reset.bass where
  strength := by decide
  freq := by decide
  q := resetWith_bass_q cfg
  lp := biquadReset_settled

theorem bandOk_zero : BandOk 0#64 := by unfold BandOk; decide

theorem reset_equalizerOk : EqualizerOk State.reset.eq where
  band0 := bandOk_zero
  band1 := bandOk_zero
  band2 := bandOk_zero
  band3 := bandOk_zero
  band4 := bandOk_zero
  band5 := bandOk_zero
  loudRef := by decide
  fade := Nat.zero_le _
  interval := le_rfl
  next := Nat.zero_le _
  left := shelvesReset_ramp
  right := shelvesReset_ramp

theorem reset_virtualizerOk : VirtualizerOk State.reset.virt where
  strength := by decide
  deep := rfl
  wide := rfl
  level := rfl
  dlyL := dlReset_ok
  dlyR := dlReset_ok
  loc := biquadReset_atRest

/-- Settles O9, effect by effect. -/
theorem resetHasInvariant : Obligations.ResetHasInvariant where
  rate := nofun
  enc := by decide
  comp := reset_compressorOk
  bass := reset_bassOk
  eq := reset_equalizerOk
  virt := reset_virtualizerOk
  fir := rfl

/-! ### Every step -/

theorem StateOk.accept {s : State} (h : StateOk s) (sin : List F64) (rest : List Command) :
    StateOk (accept s sin rest) :=
  { h with }

theorem StateOk.reply {s : State} (h : StateOk s) (status : BitVec 8) (res : BitVec 64) (sout : Option (List F64)) :
    StateOk (reply s status res sout) :=
  { h with }

theorem EqualizerOk.setBand {e : Equalizer} (h : EqualizerOk e) (k : Fin 6) {v : BitVec 64} (hv : BandOk v) :
    EqualizerOk { e with band := e.band.set k v } :=
  match k with
  | 0 => { h with band0 := hv }
  | 1 => { h with band1 := hv }
  | 2 => { h with band2 := hv }
  | 3 => { h with band3 := hv }
  | 4 => { h with band4 := hv }
  | 5 => { h with band5 := hv }

theorem runBlock_ok {s : State} (h : StateOk s) (c : Config) (n : Nat) : StateOk (runBlock c n s).1 :=
  runBlock_keeps StateOk
    (fun n s h => { h with comp := compBlock_ok h.comp c s.rate n s.sin })
    (fun adj _ h => { h with comp := compFrameNext_ok h.comp adj })
    (fun _ l r h => { h with bass := bassFrame_ok h.bass l r })
    (fun _ l r h => { h with virt := virtFrame_ok h.virt c l r })
    (fun s l r h => { h with eq := eqFrame_ok h.eq c s.rate l r })
    n h

theorem configureEffects_ok {s : State} (h : StateOk s) (c : Config) {encsel : BitVec 8} {rate : F64}
    (hrate : legalRate rate = true) (henc : encsel ≤ encMax) : StateOk (configureEffects c encsel rate s) where
  rate := fun _ => hrate
  enc := henc
  comp := configureComp_ok h.comp c rate
  bass := configureBass_ok h.bass c rate
  eq := configureEq_ok h.eq c rate
  virt := configureVirt_ok h.virt c rate
  fir := h.fir

theorem setBassStrength_ok {s : State} (h : StateOk s) (c : Config) {v : BitVec 64}
    (hv : 0 ≤ v.toInt ∧ v.toInt ≤ strengthMax) : StateOk (setBassStrength c v s) :=
  have hb : BassOk { s.bass with strength := v, q := bassQOf v } := { h.bass with strength := hv, q := rfl }
  { h with bass := bassRetune_ok hb c s.configured s.rate }

theorem setBassFreq_ok {s : State} (h : StateOk s) (c : Config) {v : F64}
    (hv : isFinite v = true ∧ legalFreq v = true) : StateOk (setBassFreq c v s) :=
  have hb : BassOk { s.bass with freq := v } := { h.bass with freq := hv }
  { h with bass := bassRetune_ok hb c s.configured s.rate }

theorem Effect.ok {s t : State} (he : Effect s t) (h : StateOk s) : StateOk t := by
  cases he with
  | nothing => exact h
  | masterEn v => exact { h with }
  | compEn v => exact { h with comp := { h.comp with } }
  | compRatio hv => exact { h with comp := { h.comp with ratio := hv } }
  | bassEn v => exact { h with bass := { h.bass with } }
  | bassStrength hv => exact setBassStrength_ok h cfg hv
  | bassFreq hv => exact setBassFreq_ok h cfg hv
  | eqEn v => exact { h with eq := { h.eq with } }
  | eqBand k hv => exact { h with eq := h.eq.setBand k hv }
  | eqLoudEn v => exact { h with eq := { h.eq with } }
  | eqLoudRef hv => exact { h with eq := { h.eq with loudRef := hv } }
  | virtEn v => exact { h with virt := { h.virt with } }
  | virtStrength hv => exact { h with virt := virtDerive_ok hv h.virt.dlyL h.virt.dlyR h.virt.loc }
  | configure hrate henc => exact configureEffects_ok h cfg hrate henc
  | process n => exact runBlock_ok h cfg n

theorem Answers.ok {s t : State} (ha : Answers s t) (h : StateOk s) : StateOk t := by
  obtain ⟨u, he, _, _, _, rfl⟩ := ha
  exact (he.ok h).reply _ _ _

/-- Settles O10: every effect a step can have keeps the invariant. -/
theorem stepKeepsInvariant : Obligations.StepKeepsInvariant := by
  intro s t h hstep
  rcases step_next hstep with rfl | ⟨cmd, rest, -, ha⟩
  · exact h
  · exact ha.ok (h.accept cmd.sin rest)

end Sys2Proof.Machine
end

section
/-! Registers that no command writes, lowers or reads: `COMP_USER` (R32), the FIR16 unit (R130, R133),
`EQ_FADE` (R177). -/

namespace Sys2Proof.Machine

/-! ### The equalizer's fade -/

theorem eqDue_fade_ge (c : Config) (rate : F64) (e : Equalizer) : e.fade.toNat ≤ (eqDue c rate e).fade.toNat := by
  unfold eqDue
  split
  · exact eqFadeStep_ge e.en e.fade
  · exact le_rfl

theorem eqFrame_fade_ge (c : Config) (rate : F64) (e : Equalizer) (l r : F64) :
    e.fade.toNat ≤ (eqFrame c rate e l r).1.fade.toNat :=
  eqDue_fade_ge c rate e

theorem runBlock_eqFade_ge (c : Config) (n : Nat) (s : State) : s.eq.fade.toNat ≤ (runBlock c n s).1.eq.fade.toNat :=
  runBlock_keeps (fun t => s.eq.fade.toNat ≤ t.eq.fade.toNat) (fun _ _ h => h) (fun _ _ h => h) (fun _ _ _ h => h)
    (fun _ _ _ h => h) (fun t l r h => h.trans (eqFrame_fade_ge c t.rate t.eq l r)) n le_rfl

theorem Effect.eqFade_ge {s t : State} (he : Effect s t) : s.eq.fade.toNat ≤ t.eq.fade.toNat := by
  cases he with
  | process n => exact runBlock_eqFade_ge cfg n s
  | _ => exact le_rfl

/-- Settles O53: only a refresh within a PROCESS moves the fade, and it moves it up. -/
theorem eqFadeNeverFalls : Obligations.EqFadeNeverFalls := by
  intro i s t h
  obtain ⟨u, he, _, _, _, rfl⟩ := exec_next h
  exact he.eqFade_ge

/-! ### The FIR16 unit and the user gain are not written -/

theorem runBlock_fir_user (c : Config) (n : Nat) (s : State) :
    (runBlock c n s).1.fir = s.fir ∧ (runBlock c n s).1.comp.user = s.comp.user :=
  runBlock_keeps (fun t => t.fir = s.fir ∧ t.comp.user = s.comp.user) (fun _ _ h => h) (fun _ _ h => h)
    (fun _ _ _ h => h) (fun _ _ _ h => h) (fun _ _ _ h => h) n ⟨rfl, rfl⟩

theorem Effect.fir_user {s t : State} (he : Effect s t) : t.fir = s.fir ∧ t.comp.user = s.comp.user := by
  cases he with
  | process n => exact runBlock_fir_user cfg n s
  | _ => exact ⟨rfl, rfl⟩

/-! ### The FIR16 unit is not read -/

/-- The state with another FIR16 unit. -/
def State.withFir (s : State) (u : Fir16) : State := { s with fir := u }

theorem compStage_withFir (g : Gates) (adj : Stereo Int) (s : State) (u : Fir16) (l r : F64) :
    compStage g adj (s.withFir u) l r = ((compStage g adj s l r).1.withFir u, (compStage g adj s l r).2) := by
  unfold compStage; split <;> rfl

theorem bassStage_withFir (g : Gates) (s : State) (u : Fir16) (l r : F64) :
    bassStage g (s.withFir u) l r = ((bassStage g s l r).1.withFir u, (bassStage g s l r).2) := by
  unfold bassStage; split <;> rfl

theorem virtStage_withFir (c : Config) (g : Gates) (s : State) (u : Fir16) (l r : F64) :
    virtStage c g (s.withFir u) l r = ((virtStage c g s l r).1.withFir u, (virtStage c g s l r).2) := by
  unfold virtStage; split <;> rfl

theorem eqStage_withFir (c : Config) (g : Gates) (s : State) (u : Fir16) (l r : F64) :
    eqStage c g (s.withFir u) l r = ((eqStage c g s l r).1.withFir u, (eqStage c g s l r).2) := by
  unfold eqStage; split <;> rfl

theorem chainFrame_withFir (c : Config) (g : Gates) (adj : Stereo Int) (s : State) (u : Fir16) (l r : F64) :
    chainFrame c g adj (s.withFir u) l r = ((chainFrame c g adj s l r).1.withFir u, (chainFrame c g adj s l r).2) := by
  simp only [chainFrame, compStage_withFir, bassStage_withFir, virtStage_withFir, eqStage_withFir]

theorem runFrames_withFir (c : Config) (g : Gates) (adj : Stereo Int) (s : State) (u : Fir16) (words : List F64) :
    runFrames c g adj (s.withFir u) words =
      ((runFrames c g adj s words).1.withFir u, (runFrames c g adj s words).2) := by
  induction words using List.twoStepInduction generalizing s with
  | nil => rfl
  | singleton x => rfl
  | cons_cons l r rest ih => simp only [runFrames_cons, chainFrame_withFir, ih]

theorem blockStep_withFir (c : Config) (g : Gates) (n : Nat) (s : State) (u : Fir16) :
    blockStep c g n (s.withFir u) = ((blockStep c g n s).1.withFir u, (blockStep c g n s).2) := by
  unfold blockStep; split <;> rfl

theorem runBlock_withFir (c : Config) (n : Nat) (s : State) (u : Fir16) :
    runBlock c n (s.withFir u) = ((runBlock c n s).1.withFir u, (runBlock c n s).2) := by
  have hgates : gatesOf (s.withFir u) = gatesOf s := rfl
  have hsin : (s.withFir u).sin = s.sin := rfl
  simp only [runBlock, hgates, hsin, blockStep_withFir, runFrames_withFir]

section
variable {s t : State} (u : Fir16)

theorem raise_withFir {code : BitVec 8} (h : raise code s = .next t) :
    raise code (s.withFir u) = .next (t.withFir u) := by
  rw [raise_next h]; rfl

theorem complete_withFir {res : BitVec 64} (h : complete res s = .next t) :
    complete res (s.withFir u) = .next (t.withFir u) := by
  rw [complete_next h]; rfl

theorem exec_withFir_of_setKnob {α : Type} {i : Instr} {operand : Option α} {write : α → State → State}
    (hi : ∀ s, exec i s = setKnob operand write s) (h : exec i s = .next t)
    (hwrite : ∀ v, write v (s.withFir u) = (write v s).withFir u) : exec i (s.withFir u) = .next (t.withFir u) := by
  rw [hi] at h ⊢
  cases operand with
  | none => exact raise_withFir u h
  | some v => rw [setKnob_some, hwrite, complete_next h]; rfl

theorem configureWith_withFir {c : Config} {ch encsel : BitVec 8} {opd : BitVec 64}
    (h : configureWith c ch encsel opd s = .next t) :
    configureWith c ch encsel opd (s.withFir u) = .next (t.withFir u) := by
  unfold configureWith at h ⊢
  cases hc : configureError c ch encsel ⟨opd⟩ with
  | some e => rw [hc] at h; exact raise_withFir u h
  | none => rw [hc] at h; rw [complete_next h]; rfl

theorem processWith_withFir {c : Config} {n : BitVec 64} (h : processWith c n s = .next t) :
    processWith c n (s.withFir u) = .next (t.withFir u) := by
  have hconfigured : (s.withFir u).configured = s.configured := rfl
  have hfault : processFault n.toNat (s.withFir u) = processFault n.toNat s := rfl
  rw [processWith, hconfigured, hfault, runBlock_withFir]
  rcases processWith_next h with ⟨hc, rfl⟩ | ⟨hc, he, rfl⟩ | ⟨hc, he, hf, rfl⟩
  · rw [hc]; rfl
  · rw [hc, he]; rfl
  · rw [hc, he, hf]; rfl

/-- No command reads the FIR16 unit. -/
theorem exec_withFir {i : Instr} (h : exec i s = .next t) : exec i (s.withFir u) = .next (t.withFir u) := by
  cases i with
  | configure ch encsel opd => exact configureWith_withFir u h
  | process n => exact processWith_withFir u h
  | setpMasterEn opd => exact exec_withFir_of_setKnob u (exec_setpMasterEn opd) h fun _ => rfl
  | setpCompEn opd => exact exec_withFir_of_setKnob u (exec_setpCompEn opd) h fun _ => rfl
  | setpCompRatio opd => exact exec_withFir_of_setKnob u (exec_setpCompRatio opd) h fun _ => rfl
  | setpBassEn opd => exact exec_withFir_of_setKnob u (exec_setpBassEn opd) h fun _ => rfl
  | setpBassStrength opd => exact exec_withFir_of_setKnob u (exec_setpBassStrength opd) h fun _ => rfl
  | setpBassFreq opd => exact exec_withFir_of_setKnob u (exec_setpBassFreq opd) h fun _ => rfl
  | setpEqEn opd => exact exec_withFir_of_setKnob u (exec_setpEqEn opd) h fun _ => rfl
  | setpEqBand0 opd => exact exec_withFir_of_setKnob u (exec_setpEqBand0 opd) h fun _ => rfl
  | setpEqBand1 opd => exact exec_withFir_of_setKnob u (exec_setpEqBand1 opd) h fun _ => rfl
  | setpEqBand2 opd => exact exec_withFir_of_setKnob u (exec_setpEqBand2 opd) h fun _ => rfl
  | setpEqBand3 opd => exact exec_withFir_of_setKnob u (exec_setpEqBand3 opd) h fun _ => rfl
  | setpEqBand4 opd => exact exec_withFir_of_setKnob u (exec_setpEqBand4 opd) h fun _ => rfl
  | setpEqBand5 opd => exact exec_withFir_of_setKnob u (exec_setpEqBand5 opd) h fun _ => rfl
  | setpEqLoudEn opd => exact exec_withFir_of_setKnob u (exec_setpEqLoudEn opd) h fun _ => rfl
  | setpEqLoudRef opd => exact exec_withFir_of_setKnob u (exec_setpEqLoudRef opd) h fun _ => rfl
  | setpVirtEn opd => exact exec_withFir_of_setKnob u (exec_setpVirtEn opd) h fun _ => rfl
  | setpVirtStrength opd => exact exec_withFir_of_setKnob u (exec_setpVirtStrength opd) h fun _ => rfl
  | getpMasterEn | getpCompEn | getpCompRatio | getpBassEn | getpBassStrength | getpBassFreq | getpEqEn | getpEqBand0
  | getpEqBand1 | getpEqBand2 | getpEqBand3 | getpEqBand4 | getpEqBand5 | getpEqLoudEn | getpEqLoudRef | getpVirtEn
  | getpVirtStrength => exact complete_withFir u h

end

/-- Settles O47: no effect writes the unit or the user gain, and every command commutes with a change of the unit. -/
theorem firAndUserGainUntouched : Obligations.FirAndUserGainUntouched := by
  refine ⟨fun _ _ => ⟨rfl, rfl⟩, fun i s t h => ?_, fun i s t u h => exec_withFir u h⟩
  obtain ⟨_, he, _, _, _, rfl⟩ := exec_next h
  exact he.fir_user

end Sys2Proof.Machine
end

section
/-! A filter call in full (R110, R111), and the ramp over a run of calls (R24, R112). -/

namespace Sys2Proof.Machine

/-! ### One call -/

theorem bqProcess_rem_toNat (b : Biquad) (x : F64) : (bqProcess b x).1.rem.toNat = b.rem.toNat - 1 := by
  rw [bqProcess_rem]
  split_ifs with h
  · rw [h]; rfl
  · bv_omega

/-- The last call of a ramp takes the target. -/
theorem bqProcess_cur_of_rem_one {b : Biquad} (h : b.rem = 1#32) (x : F64) : (bqProcess b x).1.cur = b.tgt := by
  simp [bqProcess, bqStep, h]

/-- A call before the last takes each coefficient its part of the way. -/
theorem bqProcess_cur_of_two_le {b : Biquad} (h : 2 ≤ b.rem.toNat) (x : F64) :
    (bqProcess b x).1.cur =
      { a0 := rampStep b.cur.a0 b.tgt.a0 (i2d b.rem.toNat)
        a1 := rampStep b.cur.a1 b.tgt.a1 (i2d b.rem.toNat)
        a2 := rampStep b.cur.a2 b.tgt.a2 (i2d b.rem.toNat)
        b1 := rampStep b.cur.b1 b.tgt.b1 (i2d b.rem.toNat)
        b2 := rampStep b.cur.b2 b.tgt.b2 (i2d b.rem.toNat) } := by
  have h0 : b.rem ≠ 0#32 := by bv_omega
  have h1 : b.rem ≠ 1#32 := by bv_omega
  simp only [bqProcess, bqStep, if_neg h0, if_neg h1]

/-! ### A run of calls -/

/-- The filter after a call on each of the samples. -/
def bqCalls (b : Biquad) (xs : List F64) : Biquad := xs.foldl (fun k x => (bqProcess k x).1) b

theorem bqCalls_cons (b : Biquad) (x : F64) (xs : List F64) : bqCalls b (x :: xs) = bqCalls (bqProcess b x).1 xs := rfl

theorem bqCalls_tgt (b : Biquad) (xs : List F64) : (bqCalls b xs).tgt = b.tgt := by
  induction xs generalizing b with
  | nil => rfl
  | cons x xs ih => rw [bqCalls_cons, ih, bqProcess_tgt]

/-- Each call takes one off the count while it is positive (R24 (iii)). -/
theorem bqCalls_rem_toNat (b : Biquad) (xs : List F64) : (bqCalls b xs).rem.toNat = b.rem.toNat - xs.length := by
  induction xs generalizing b with
  | nil => rfl
  | cons x xs ih => rw [bqCalls_cons, ih, bqProcess_rem_toNat, List.length_cons, Nat.sub_sub, Nat.add_comm 1]

theorem bqCalls_settled {b : Biquad} (h : BiquadSettled b) (xs : List F64) : BiquadSettled (bqCalls b xs) := by
  induction xs generalizing b with
  | nil => exact h
  | cons x xs ih => exact ih (bqProcess_settled h x)

/-- A settled filter has its target once its calls are used up (R112 (iv)). -/
theorem bqCalls_cur {b : Biquad} (h : BiquadSettled b) {xs : List F64} (hlen : b.rem.toNat ≤ xs.length) :
    (bqCalls b xs).cur = b.tgt := by
  have hrem : (bqCalls b xs).rem = 0#32 :=
    BitVec.eq_of_toNat_eq ((bqCalls_rem_toNat b xs).trans (Nat.sub_eq_zero_of_le hlen))
  rw [bqCalls_settled h xs hrem, bqCalls_tgt]

/-- After an install a run of calls ends at the new set. -/
theorem bqCalls_bqInstall (new : Coeffs) (n : BitVec 32) (b : Biquad) (xs : List F64) :
    (bqCalls (bqInstall new n b) xs).tgt = new ∧
    (bqCalls (bqInstall new n b) xs).rem.toNat = n.toNat - xs.length ∧
    (n.toNat ≤ xs.length → (bqCalls (bqInstall new n b) xs).cur = new) := by
  refine ⟨?_, ?_, fun hlen => ?_⟩
  · rw [bqCalls_tgt, bqInstall_tgt]
  · rw [bqCalls_rem_toNat, bqInstall_rem]
  · rw [bqCalls_cur (bqInstall_settled new n b) (by rwa [bqInstall_rem]), bqInstall_tgt]

/-- Settles O39: one call by the branches of its step, a run of calls by induction on the samples. -/
theorem rampEndsAtTarget : Obligations.RampEndsAtTarget := by
  refine ⟨fun b x => ?_, biquadReset_settled, fun c kind n f rate p dBGain overallDb b => ?_, fun b x h => ?_,
    bqClear_rem, bqCalls_bqInstall⟩
  · exact ⟨rfl, bqStep_w1 _, bqStep_w2 _, bqProcess_tgt b x, bqProcess_rem_toNat b x,
      fun h => bqProcess_cur_of_rem_zero (BitVec.eq_of_toNat_eq h) x,
      fun h => bqProcess_cur_of_rem_one (BitVec.eq_of_toNat_eq h) x, fun h => bqProcess_cur_of_two_le h x⟩
  · exact ⟨bqInstall_settled _ _ _, bqInstall_rem _ _ _⟩
  · exact ⟨bqProcess_settled h x, bqStep_settled h, bqClear_settled h⟩

end Sys2Proof.Machine
end

section
/-! Bytes on a transport (R65): a word's bytes each in its place, and the word back from its bytes. -/

namespace Sys2Proof

/-! ### One word -/

@[simp] theorem length_leBytes (n v : Nat) : (leBytes n v).length = n := by
  induction n generalizing v with
  | zero => rfl
  | succ n ih => simp [leBytes, ih]

theorem getElem?_leBytes {n k : Nat} (hk : k < n) (v : Nat) :
    (leBytes n v)[k]? = some (BitVec.ofNat 8 (v / 256 ^ k)) := by
  induction n generalizing k v with
  | zero => omega
  | succ n ih =>
    cases k with
    | zero => simp [leBytes]
    | succ k => rw [leBytes, List.getElem?_cons_succ, ih (by omega), Nat.div_div_eq_div_mul, pow_succ']

theorem bitField_eq_ofNat {w : Nat} (v : BitVec w) (k : Nat) :
    bitField v (8 * k) 8 = BitVec.ofNat 8 (v.toNat / 256 ^ k) := by
  rw [bitField, BitVec.extractLsb', Nat.shiftRight_eq_div_pow, pow_mul, show 2 ^ 8 = 256 from rfl]

/-- Byte `k` of a word is its bits [8k+7:8k]. -/
theorem getElem?_leBytes_toNat {w n k : Nat} (hk : k < n) (v : BitVec w) :
    (leBytes n v.toNat)[k]? = some (bitField v (8 * k) 8) := by
  rw [getElem?_leBytes hk, bitField_eq_ofNat]

theorem leValue_leBytes (n v : Nat) : leValue (leBytes n v) = v % 256 ^ n := by
  induction n generalizing v with
  | zero => simp [leBytes, leValue, Nat.mod_one]
  | succ n ih => rw [leBytes, leValue, ih, BitVec.toNat_ofNat, pow_succ' 256 n, Nat.mod_mul]

/-- A word is the value of its bytes. -/
theorem ofNat_leValue_leBytes {w n : Nat} (hw : 2 ^ w ≤ 256 ^ n) (v : BitVec w) :
    BitVec.ofNat w (leValue (leBytes n v.toNat)) = v := by
  rw [leValue_leBytes, Nat.mod_eq_of_lt (v.isLt.trans_le hw), BitVec.ofNat_toNat, BitVec.setWidth_eq]

/-! ### Commands, responses, blocks -/

@[simp] theorem length_commandBytes (cw : BitVec 32) (opd : BitVec 64) : (commandBytes cw opd).length = 12 := by
  simp [commandBytes]

theorem getElem?_commandBytes_word {k : Nat} (hk : k < 4) (cw : BitVec 32) (opd : BitVec 64) :
    (commandBytes cw opd)[k]? = some (bitField cw (8 * k) 8) := by
  rw [commandBytes, List.getElem?_append_left (by simpa using hk), getElem?_leBytes_toNat hk]

theorem getElem?_commandBytes_operand {k : Nat} (hk : k < 8) (cw : BitVec 32) (opd : BitVec 64) :
    (commandBytes cw opd)[4 + k]? = some (bitField opd (8 * k) 8) := by
  rw [commandBytes, List.getElem?_append_right (by simp), length_leBytes, Nat.add_sub_cancel_left,
    getElem?_leBytes_toNat hk]

@[simp] theorem length_responseBytes (status : BitVec 8) (res : BitVec 64) : (responseBytes status res).length = 9 := by
  simp [responseBytes]

theorem getElem?_responseBytes_status (status : BitVec 8) (res : BitVec 64) :
    (responseBytes status res)[0]? = some status := by
  simp [responseBytes, leBytes]

theorem getElem?_responseBytes_result {k : Nat} (hk : k < 8) (status : BitVec 8) (res : BitVec 64) :
    (responseBytes status res)[1 + k]? = some (bitField res (8 * k) 8) := by
  rw [responseBytes, List.getElem?_append_right (by simp), length_leBytes, Nat.add_sub_cancel_left,
    getElem?_leBytes_toNat hk]

theorem blockBytes_cons (x : F64) (block : List F64) :
    blockBytes (x :: block) = leBytes 8 x.bits.toNat ++ blockBytes block := rfl

@[simp] theorem length_blockBytes (block : List F64) : (blockBytes block).length = 8 * block.length := by
  induction block with
  | nil => rfl
  | cons x block ih => rw [blockBytes_cons, List.length_append, length_leBytes, ih, List.length_cons]; omega

/-- Word `j` of a block takes the eight bytes from `8j` on. -/
theorem getElem?_blockBytes {block : List F64} {j k : Nat} {x : F64} (hx : block[j]? = some x) (hk : k < 8) :
    (blockBytes block)[8 * j + k]? = some (bitField x.bits (8 * k) 8) := by
  induction block generalizing j with
  | nil => simp at hx
  | cons y block ih =>
    rw [blockBytes_cons]
    cases j with
    | zero =>
      obtain rfl : y = x := by simpa using hx
      rw [List.getElem?_append_left (by simpa using hk), Nat.mul_zero, Nat.zero_add, getElem?_leBytes_toNat hk]
    | succ j =>
      rw [List.getElem?_append_right (by simp; omega), length_leBytes, show 8 * (j + 1) + k - 8 = 8 * j + k by omega]
      exact ih (by simpa using hx)

/-- Settles O5: each word's bytes lie in order, after those of the words before it. -/
theorem transportIsLittleEndian : Obligations.TransportIsLittleEndian :=
  ⟨fun cw opd => ⟨length_commandBytes cw opd, fun _ hk => getElem?_commandBytes_word hk cw opd,
      fun _ hk => getElem?_commandBytes_operand hk cw opd⟩,
    fun status res => ⟨length_responseBytes status res, getElem?_responseBytes_status status res,
      fun _ hk => getElem?_responseBytes_result hk status res⟩,
    fun block => ⟨length_blockBytes block, fun _ _ hx _ hk => getElem?_blockBytes hx hk⟩⟩

end Sys2Proof
end

section
/-! Decoding (R89, R90): the fields of a packed word (R81), `decode` opcode by opcode, and every command back from its
words and its bytes. -/

namespace Sys2Proof

/-! ### The fields of a packed word -/

section
variable (opc pid : BitVec 8) (aux : BitVec 16)

@[simp] theorem opcOf_packWord : opcOf (packWord opc pid aux) = opc :=
  (BitVec.extractLsb'_append_eq_of_le (by decide)).trans BitVec.extractLsb'_append_eq_left

@[simp] theorem pidOf_packWord : pidOf (packWord opc pid aux) = pid :=
  (BitVec.extractLsb'_append_eq_of_le (by decide)).trans BitVec.extractLsb'_append_eq_right

@[simp] theorem auxOf_packWord : auxOf (packWord opc pid aux) = aux := BitVec.extractLsb'_append_eq_right

@[simp] theorem chOf_packWord (encsel ch : BitVec 8) : chOf (packWord opc pid (encsel ++ ch)) = ch :=
  (BitVec.extractLsb'_append_eq_of_add_le (by decide)).trans BitVec.extractLsb'_append_eq_right

@[simp] theorem encselOf_packWord (encsel ch : BitVec 8) : encselOf (packWord opc pid (encsel ++ ch)) = encsel :=
  (BitVec.extractLsb'_append_eq_of_add_le (by decide)).trans BitVec.extractLsb'_append_eq_left

end

/-! ### The decoder, opcode by opcode -/

section
variable {cw : BitVec 32} (opd : BitVec 64)

theorem decode_of_opc_configure (h : opcOf cw = 0x01#8) :
    decode cw opd =
      if pidOf cw = 0#8 then .ok (.configure (chOf cw) (encselOf cw) opd) else .error .pidNotZero := by
  rw [decode, h]; rfl

theorem decode_of_opc_setp (h : opcOf cw = 0x02#8) :
    decode cw opd = if auxOf cw = 0#16 then orReservedPid (setpOf (pidOf cw) opd) else .error .auxNotZero := by
  rw [decode, h]; rfl

theorem decode_of_opc_getp (h : opcOf cw = 0x03#8) :
    decode cw opd = if auxOf cw = 0#16 then orReservedPid (getpOf (pidOf cw)) else .error .auxNotZero := by
  rw [decode, h]; rfl

theorem decode_of_opc_process (h : opcOf cw = 0x04#8) :
    decode cw opd =
      if pidOf cw ≠ 0#8 then .error .pidNotZero
      else if auxOf cw ≠ 0#16 then .error .auxNotZero
      else .ok (.process opd) := by
  rw [decode, h]; rfl

end

/-! ### Every command back -/

/-- A SETP's word decodes to the command its PID names. -/
theorem decode_setpWord {pid : BitVec 8} {opd : BitVec 64} {i : Instr} (h : setpOf pid opd = some i) :
    decode (packWord 0x02#8 pid 0#16) opd = .ok i := by
  rw [decode_of_opc_setp opd (opcOf_packWord ..), auxOf_packWord, if_pos rfl, pidOf_packWord, h, orReservedPid]

/-- A GETP's word decodes to the command its PID names, whatever its operand. -/
theorem decode_getpWord {pid : BitVec 8} {i : Instr} (h : getpOf pid = some i) (opd : BitVec 64) :
    decode (packWord 0x03#8 pid 0#16) opd = .ok i := by
  rw [decode_of_opc_getp opd (opcOf_packWord ..), auxOf_packWord, if_pos rfl, pidOf_packWord, h, orReservedPid]

/-- The encoder's words decode to the command they come from (R90). -/
theorem decode_encode (i : Instr) : decode (encode i).1 (encode i).2 = .ok i := by
  cases i with
  | configure ch encsel opd => simp [encode, decode_of_opc_configure]
  | process n => simp [encode, decode_of_opc_process]
  | setpMasterEn | setpCompEn | setpCompRatio | setpBassEn | setpBassStrength | setpBassFreq | setpEqEn | setpEqBand0
  | setpEqBand1 | setpEqBand2 | setpEqBand3 | setpEqBand4 | setpEqBand5 | setpEqLoudEn | setpEqLoudRef | setpVirtEn
  | setpVirtStrength => exact decode_setpWord rfl
  | getpMasterEn | getpCompEn | getpCompRatio | getpBassEn | getpBassStrength | getpBassFreq | getpEqEn | getpEqBand0
  | getpEqBand1 | getpEqBand2 | getpEqBand3 | getpEqBand4 | getpEqBand5 | getpEqLoudEn | getpEqLoudRef | getpVirtEn
  | getpVirtStrength => exact decode_getpWord rfl _

/-- The twelve bytes of a command decode as its two words do. -/
theorem decodeBytes_commandBytes (cw : BitVec 32) (opd : BitVec 64) :
    decodeBytes (commandBytes cw opd) = decode cw opd := by
  have hword : (commandBytes cw opd).take 4 = leBytes 4 cw.toNat := List.take_left' (length_leBytes 4 _)
  have hoperand : (commandBytes cw opd).drop 4 = leBytes 8 opd.toNat := List.drop_left' (length_leBytes 4 _)
  rw [decodeBytes, if_pos (length_commandBytes cw opd), hword, hoperand, ofNat_leValue_leBytes (by decide),
    ofNat_leValue_leBytes (by decide)]

/-- Settles O1: the words by the decoder's equation for each opcode, the bytes because they give the words back. -/
theorem decodeInvertsEncode : Obligations.DecodeInvertsEncode :=
  fun i => ⟨decode_encode i, (decodeBytes_commandBytes _ _).trans (decode_encode i)⟩

end Sys2Proof
end

section
/-! A step never stops (R66, R276): every command answers, PROCESS where nothing takes it out of its spaces. -/

namespace Sys2Proof.Machine

/-! ### What always answers -/

theorem setKnob_answers {α : Type} (operand : Option α) (write : α → State → State) (s : State) :
    ∃ t, setKnob operand write s = .next t := by
  cases operand with
  | none => exact ⟨_, setKnob_none write s⟩
  | some v => exact ⟨_, setKnob_some v write s⟩

theorem complete_answers (res : BitVec 64) (s : State) : ∃ t, complete res s = .next t := ⟨_, rfl⟩

theorem configureWith_answers (c : Config) (ch encsel : BitVec 8) (opd : BitVec 64) (s : State) :
    ∃ t, configureWith c ch encsel opd s = .next t := by
  unfold configureWith
  split
  · exact ⟨_, rfl⟩
  · exact ⟨_, rfl⟩

/-! ### PROCESS -/

/-- PROCESS answers where no fault is found before it starts. -/
theorem processWith_answers {c : Config} {n : BitVec 64} {s : State} (h : processFault n.toNat s = none) :
    ∃ t, processWith c n s = .next t := by
  unfold processWith
  split_ifs
  · exact ⟨_, rfl⟩
  · exact ⟨_, rfl⟩
  · rw [h]; exact ⟨_, rfl⟩

/-- The invariant leaves a PROCESS no fault but an input block of the wrong size: cursors are in bounds (R66) and
`EQ_INTERVAL` is not 0. -/
theorem StateOk.processFault_none {n : Nat} {s : State} (h : StateOk s) (hlen : s.sin.length = 2 * n) :
    processFault n s = none := by
  refine Machine.processFault_none.2 ⟨hlen, fun _ _ => ⟨h.virt.dlyL.inBounds, h.virt.dlyR.inBounds⟩, fun _ h0 => ?_⟩
  have hinterval := h.eq.interval
  rw [h0] at hinterval
  exact absurd hinterval (by decide)

/-! ### Every command -/

/-- A command with a block that fits it (R87) answers. -/
theorem exec_answers {i : Instr} {s : State} (h : StateOk s) (hw : wellFormed i s.sin = true) :
    ∃ t, exec i s = .next t := by
  cases i with
  | configure ch encsel opd => exact configureWith_answers cfg ch encsel opd s
  | process n => exact processWith_answers (h.processFault_none (of_decide_eq_true hw))
  | setpMasterEn | setpCompEn | setpCompRatio | setpBassEn | setpBassStrength | setpBassFreq | setpEqEn | setpEqBand0
  | setpEqBand1 | setpEqBand2 | setpEqBand3 | setpEqBand4 | setpEqBand5 | setpEqLoudEn | setpEqLoudRef | setpVirtEn
  | setpVirtStrength => apply setKnob_answers
  | getpMasterEn | getpCompEn | getpCompRatio | getpBassEn | getpBassStrength | getpBassFreq | getpEqEn | getpEqBand0
  | getpEqBand1 | getpEqBand2 | getpEqBand3 | getpEqBand4 | getpEqBand5 | getpEqLoudEn | getpEqLoudRef | getpVirtEn
  | getpVirtStrength => exact complete_answers _ s

/-- Settles O11: an idle step and a refused word answer, and a command from the state that accepted it does. -/
theorem stepNeverStops : Obligations.StepNeverStops := by
  intro s h hhost
  rw [SafeStep]
  cases hin : s.inbox with
  | nil => exact ⟨s, step_of_inbox_nil hin⟩
  | cons cmd rest =>
    rw [step_of_inbox_cons hin]
    cases hd : decode cmd.cw cmd.opd with
    | ok i =>
      rw [runCommand_of_decode_ok hd]
      exact exec_answers (h.accept cmd.sin rest) (hhost cmd rest i hin hd)
    | error e => exact ⟨_, runCommand_of_decode_error hd _⟩

end Sys2Proof.Machine
end

section
/-! One call of a delay line (R122, R123): its equations, and what it reads and leaves alone. -/

namespace Sys2Proof.Machine

theorem dlProcess_of_len_zero {d : DelayLine} (h : d.len = 0#32) (x : F64) : dlProcess d x = (d, x) := by
  rw [dlProcess, dlNext_of_len_zero h, dlOut, if_pos h]

theorem dlProcess_out {d : DelayLine} (h : d.len ≠ 0#32) (x : F64) :
    (dlProcess d x).2 = memRead d.buf d.cur.toNat := by
  rw [dlProcess, dlOut, if_neg h]

theorem dlProcess_buf {d : DelayLine} (h : d.len ≠ 0#32) (x : F64) :
    (dlProcess d x).1.buf = memWrite d.buf d.cur.toNat x := dlNext_buf h x

/-- Settles O44: the call is one `memWrite` at the cursor, so a read after it is `memRead_memWrite`. -/
theorem delayCallFrame : Obligations.DelayCallFrame := by
  refine fun d x hwf => ⟨fun h => dlProcess_of_len_zero h x, fun h => ?_⟩
  rw [dlProcess_buf h]
  exact ⟨dlProcess_out h x, fun k => memRead_memWrite hwf d.cur.toNat k x, dlNext_len d x, dlNext_cur h x,
    memWf_memWrite hwf d.cur.toNat x⟩

end Sys2Proof.Machine
end

section
/-! Legal and illegal words (R89 to R91): the fields make up the word, the PIDs that name a knob, and all `decode` can
answer. -/

namespace Sys2Proof

/-! ### A word is its fields -/

theorem packWord_fields (cw : BitVec 32) : packWord (opcOf cw) (pidOf cw) (auxOf cw) = cw := by
  have hopcPid : opcOf cw ++ pidOf cw = bitField cw 16 16 := BitVec.extractLsb'_append_extractLsb'_eq_extractLsb' rfl
  rw [packWord, hopcPid]
  exact (BitVec.extractLsb'_append_extractLsb'_eq_extractLsb' rfl).trans BitVec.extractLsb'_eq_self

theorem encselOf_append_chOf (cw : BitVec 32) : encselOf cw ++ chOf cw = auxOf cw :=
  BitVec.extractLsb'_append_extractLsb'_eq_extractLsb' rfl

/-! ### The PIDs of the knobs -/

/-- The PIDs that name a knob (R84); every other one is reserved. -/
def knobPids : List (BitVec 8) :=
  [0x00#8, 0x10#8, 0x11#8, 0x20#8, 0x21#8, 0x22#8, 0x30#8, 0x31#8, 0x32#8, 0x33#8, 0x34#8, 0x35#8, 0x36#8, 0x37#8,
    0x38#8, 0x40#8, 0x41#8]

section
variable {pid : BitVec 8} {opd : BitVec 64} {i : Instr}

theorem setpOf_eq_none_iff : setpOf pid opd = none ↔ pid ∉ knobPids := by
  simp only [knobPids, List.mem_cons, ← BitVec.toNat_inj]
  unfold setpOf
  split <;> simp_all

theorem getpOf_eq_none_iff : getpOf pid = none ↔ pid ∉ knobPids := by
  simp only [knobPids, List.mem_cons, ← BitVec.toNat_inj]
  unfold getpOf
  split <;> simp_all

theorem map_encode_setpOf (h : pid ∈ knobPids) : (setpOf pid opd).map encode = some (packWord 0x02#8 pid 0#16, opd) := by
  revert pid
  simp [knobPids, setpOf, encode]

theorem encode_of_setpOf (h : (setpOf pid opd) = some i) : encode i = (packWord 0x02#8 pid 0#16, opd) := by
  have hpid : pid ∈ knobPids := by
    by_contra hreserved
    rw [setpOf_eq_none_iff.2 hreserved] at h
    cases h
  have hmap := map_encode_setpOf (opd := opd) hpid
  rwa [h, Option.map_some, Option.some.injEq] at hmap

theorem map_encode_getpOf (h : pid ∈ knobPids) : (getpOf pid).map encode = some (packWord 0x03#8 pid 0#16, 0#64) := by
  revert pid
  simp [knobPids, getpOf, encode]

theorem encode_of_getpOf (h : (getpOf pid) = some i) : encode i = (packWord 0x03#8 pid 0#16, 0#64) := by
  have hpid : pid ∈ knobPids := by
    by_contra hreserved
    rw [getpOf_eq_none_iff.2 hreserved] at h
    cases h
  have hmap := map_encode_getpOf hpid
  rwa [h, Option.map_some, Option.some.injEq] at hmap

end

theorem orReservedPid_eq_ok {x : Option Instr} {i : Instr} : orReservedPid x = .ok i ↔ x = some i := by
  cases x <;> simp [orReservedPid]

theorem orReservedPid_eq_error {x : Option Instr} : (∃ e, orReservedPid x = .error e) ↔ x = none := by
  cases x <;> simp [orReservedPid]

/-! ### All the decoder can answer -/

theorem opcOf_cases (cw : BitVec 32) :
    opcOf cw = 0x01#8 ∨ opcOf cw = 0x02#8 ∨ opcOf cw = 0x03#8 ∨ opcOf cw = 0x04#8 ∨
      opcOf cw ∉ [0x01#8, 0x02#8, 0x03#8, 0x04#8] := by
  simp only [List.mem_cons, List.not_mem_nil, or_false]
  tauto

/-- The four ways a command word is illegal (R89). -/
def IllegalWord (cw : BitVec 32) : Prop :=
  opcOf cw ∉ [0x01#8, 0x02#8, 0x03#8, 0x04#8] ∨
  ((opcOf cw = 0x02#8 ∨ opcOf cw = 0x03#8) ∧ pidOf cw ∉ knobPids) ∨
  ((opcOf cw = 0x01#8 ∨ opcOf cw = 0x04#8) ∧ pidOf cw ≠ 0x00#8) ∨
  ((opcOf cw = 0x02#8 ∨ opcOf cw = 0x03#8 ∨ opcOf cw = 0x04#8) ∧ auxOf cw ≠ 0x0000#16)

section
variable {cw : BitVec 32} {opd : BitVec 64} {i : Instr}

theorem decode_of_opc_reserved (h : opcOf cw ∉ [0x01#8, 0x02#8, 0x03#8, 0x04#8]) :
    decode cw opd = .error .reservedOpc := by
  simp only [List.mem_cons, ← BitVec.toNat_inj] at h
  unfold decode
  split <;> simp_all

/-- A word that decodes, by its opcode. -/
theorem decode_eq_ok (h : decode cw opd = .ok i) :
    (opcOf cw = 0x01#8 ∧ pidOf cw = 0#8 ∧ i = .configure (chOf cw) (encselOf cw) opd) ∨
    (opcOf cw = 0x02#8 ∧ auxOf cw = 0#16 ∧ setpOf (pidOf cw) opd = some i) ∨
    (opcOf cw = 0x03#8 ∧ auxOf cw = 0#16 ∧ getpOf (pidOf cw) = some i) ∨
    (opcOf cw = 0x04#8 ∧ pidOf cw = 0#8 ∧ auxOf cw = 0#16 ∧ i = .process opd) := by
  rcases opcOf_cases cw with hopc | hopc | hopc | hopc | hopc
  · rw [decode_of_opc_configure opd hopc] at h
    split_ifs at h with hpid
    cases h
    exact .inl ⟨hopc, hpid, rfl⟩
  · rw [decode_of_opc_setp opd hopc] at h
    split_ifs at h with haux
    exact .inr (.inl ⟨hopc, haux, orReservedPid_eq_ok.1 h⟩)
  · rw [decode_of_opc_getp opd hopc] at h
    split_ifs at h with haux
    exact .inr (.inr (.inl ⟨hopc, haux, orReservedPid_eq_ok.1 h⟩))
  · rw [decode_of_opc_process opd hopc] at h
    split_ifs at h with hpid haux
    cases h
    exact .inr (.inr (.inr ⟨hopc, not_not.1 hpid, not_not.1 haux, rfl⟩))
  · rw [decode_of_opc_reserved hopc] at h
    cases h

/-- The decoder refuses exactly the illegal words of R89, whatever the operand. -/
theorem decode_eq_error_iff : (∃ e, decode cw opd = .error e) ↔ IllegalWord cw := by
  rcases opcOf_cases cw with hopc | hopc | hopc | hopc | hopc
  · rw [decode_of_opc_configure opd hopc]
    split_ifs with hpid <;> simp [IllegalWord, hopc, hpid]
  · rw [decode_of_opc_setp opd hopc]
    split_ifs with haux
    · rw [orReservedPid_eq_error, setpOf_eq_none_iff]
      simp [IllegalWord, hopc, haux]
    · simp [IllegalWord, hopc, haux]
  · rw [decode_of_opc_getp opd hopc]
    split_ifs with haux
    · rw [orReservedPid_eq_error, getpOf_eq_none_iff]
      simp [IllegalWord, hopc, haux]
    · simp [IllegalWord, hopc, haux]
  · rw [decode_of_opc_process opd hopc]
    split_ifs with hpid haux <;> simp [IllegalWord, *]
  · exact ⟨fun _ => .inl hopc, fun _ => ⟨_, decode_of_opc_reserved hopc⟩⟩

/-- The word of the command a word decodes to is that word. -/
theorem encode_word_of_decode (h : decode cw opd = .ok i) : (encode i).1 = cw := by
  refine Eq.trans ?_ (packWord_fields cw)
  rcases decode_eq_ok h with ⟨hopc, hpid, rfl⟩ | ⟨hopc, haux, hi⟩ | ⟨hopc, haux, hi⟩ | ⟨hopc, hpid, haux, rfl⟩
  · rw [encode, hopc, hpid, encselOf_append_chOf]
  · rw [encode_of_setpOf hi, hopc, haux]
  · rw [encode_of_getpOf hi, hopc, haux]
  · rw [encode, hopc, hpid, haux]

theorem encode_operand_of_decode (h : decode cw opd = .ok i) (hopc : opcOf cw ≠ 0x03#8) : (encode i).2 = opd := by
  rcases decode_eq_ok h with ⟨-, -, rfl⟩ | ⟨-, -, hi⟩ | ⟨hgetp, -, -⟩ | ⟨-, -, -, rfl⟩
  · rfl
  · rw [encode_of_setpOf hi]
  · exact absurd hgetp hopc
  · rfl

theorem decode_getp_ignores_operand (h : decode cw opd = .ok i) (hopc : opcOf cw = 0x03#8) (other : BitVec 64) :
    decode cw other = .ok i := by
  rw [decode_of_opc_getp other hopc, ← decode_of_opc_getp opd hopc, h]

end

/-- Settles O2, by the inversion of `decode` opcode by opcode. -/
theorem encodeInvertsDecode : Obligations.EncodeInvertsDecode :=
  fun _ _ _ h => ⟨encode_word_of_decode h, encode_operand_of_decode h, fun hopc => decode_getp_ignores_operand h hopc⟩

/-- Settles O3: what makes a word illegal does not mention the operand. -/
theorem illegalCommandWords : Obligations.IllegalCommandWords := by
  intro cw opd
  have hillegal (opd : BitVec 64) : (∃ e, decode cw opd = .error e) ↔ IllegalWord cw := decode_eq_error_iff
  refine ⟨hillegal opd, fun other herr => (hillegal other).2 ((hillegal opd).1 herr), ?_⟩
  rintro ⟨e, herr⟩ sin s
  exact Machine.runCommand_of_decode_error (cmd := ⟨cw, opd, sin⟩) herr s

/-- Settles O4: the opcode of each word selects the decoder's case, and the word's fields are evaluated there. -/
theorem writtenWordsDecode : Obligations.WrittenWordsDecode :=
  ⟨decode_of_opc_configure _ rfl, decode_of_opc_configure _ rfl, decode_setpWord (pid := 0x21#8) rfl,
    decode_setpWord (pid := 0x36#8) rfl, decode_getpWord (pid := 0x38#8) rfl _, decode_of_opc_process _ rfl,
    decode_of_opc_configure _ rfl, decode_of_opc_setp _ rfl, decode_of_opc_setp _ rfl, decode_of_opc_process _ rfl,
    decode_of_opc_reserved (by decide), decode_of_opc_reserved (by decide)⟩

end Sys2Proof
end

section
/-! SETPs one knob at a time (R85, R222 to R238): which operands are legal, what a legal one writes, and what the knob's
GETP reads back (R258). -/

namespace Sys2Proof.Machine

/-! ### Legal operands -/

theorem boolOperand_of_le_one {opd : BitVec 64} (h : opd.toNat ≤ 1) :
    boolOperand opd = some (decide (opd.toNat = 1)) := by
  obtain h0 | h1 : opd.toNat = 0 ∨ opd.toNat = 1 := by omega
  · obtain rfl : opd = 0#64 := BitVec.eq_of_toNat_eq h0
    rfl
  · obtain rfl : opd = 1#64 := BitVec.eq_of_toNat_eq h1
    rfl

theorem boolOperand_of_one_lt {opd : BitVec 64} (h : 1 < opd.toNat) : boolOperand opd = none := by
  refine boolOperand_eq_none.2 ⟨?_, ?_⟩
  · rintro rfl
    exact absurd h (by decide)
  · rintro rfl
    exact absurd h (by decide)

theorem f64Operand_eq_none {legal : F64 → Bool} {opd : BitVec 64} :
    f64Operand legal opd = none ↔ ¬(isFinite ⟨opd⟩ = true ∧ legal ⟨opd⟩ = true) := by
  rw [f64Operand, ← Bool.and_eq_true]
  split_ifs with h <;> simp [h]

theorem isFinite_and_toReal_compRatioMin : isFinite compRatioMin = true ∧ toReal compRatioMin = 1 := by
  have h : compRatioMin = i2d 1 := by decide +kernel
  rw [h]
  exact_mod_cast toReal_i2d (n := 1) (by norm_num)

theorem isFinite_and_toReal_compRatioMax : isFinite compRatioMax = true ∧ toReal compRatioMax = 11 := by
  have h : compRatioMax = i2d 11 := by decide +kernel
  rw [h]
  exact_mod_cast toReal_i2d (n := 11) (by norm_num)

/-- The two comparisons of R225 as real numbers. -/
theorem legalRatio_iff {v : F64} (hv : isFinite v = true) : legalRatio v = true ↔ 1 ≤ toReal v ∧ toReal v ≤ 11 := by
  obtain ⟨hmin, hminVal⟩ := isFinite_and_toReal_compRatioMin
  obtain ⟨hmax, hmaxVal⟩ := isFinite_and_toReal_compRatioMax
  have hnan := isNaN_of_isFinite hv
  rw [legalRatio, Bool.and_eq_true, fle_iff (isNaN_of_isFinite hmin) hnan, fle_iff hnan (isNaN_of_isFinite hmax),
    hminVal, hmaxVal]

/-! ### What a SETP answers -/

section
variable {α : Type} {i : Instr} {operand : Option α} {write : α → State → State}

theorem exec_of_legal (hi : ∀ s, exec i s = setKnob operand write s) {v : α} (hv : operand = some v) (s : State) :
    exec i s = .next (reply (write v s) 0x00#8 0#64 none) := by
  rw [hi, hv, setKnob_some]
  rfl

theorem exec_of_illegal (hi : ∀ s, exec i s = setKnob operand write s) (hv : operand = none) (s : State) :
    exec i s = .next (reply s 0x04#8 0#64 none) := by
  rw [hi, hv, setKnob_none]
  rfl

end

/-- Settles O12: `boolOperand` decides for all six knobs alike. -/
theorem setpBoolKnobs : Obligations.SetpBoolKnobs := by
  refine fun opd s => ⟨decode_setpWord (pid := 0x00#8) rfl, decode_setpWord (pid := 0x10#8) rfl,
    decode_setpWord (pid := 0x20#8) rfl, decode_setpWord (pid := 0x30#8) rfl, decode_setpWord (pid := 0x37#8) rfl,
    decode_setpWord (pid := 0x40#8) rfl, fun h => ?_, fun h => ?_⟩
  · have hv := boolOperand_of_le_one h
    exact ⟨exec_of_legal (exec_setpMasterEn opd) hv s, exec_of_legal (exec_setpCompEn opd) hv s,
      exec_of_legal (exec_setpBassEn opd) hv s, exec_of_legal (exec_setpEqEn opd) hv s,
      exec_of_legal (exec_setpEqLoudEn opd) hv s, exec_of_legal (exec_setpVirtEn opd) hv s⟩
  · have hv := boolOperand_of_one_lt h
    exact ⟨exec_of_illegal (exec_setpMasterEn opd) hv s, exec_of_illegal (exec_setpCompEn opd) hv s,
      exec_of_illegal (exec_setpBassEn opd) hv s, exec_of_illegal (exec_setpEqEn opd) hv s,
      exec_of_illegal (exec_setpEqLoudEn opd) hv s, exec_of_illegal (exec_setpVirtEn opd) hv s⟩

/-- Settles O13: the legal words are those `legalRatio_iff` describes. -/
theorem setpCompRatio : Obligations.SetpCompRatio := by
  refine fun opd s => ⟨decode_setpWord (pid := 0x11#8) rfl, fun ⟨hfin, hrange⟩ => ?_, fun h => ?_⟩
  · exact exec_of_legal (exec_setpCompRatio opd) (f64Operand_eq_some.2 ⟨rfl, hfin, (legalRatio_iff hfin).2 hrange⟩) s
  · refine exec_of_illegal (exec_setpCompRatio opd) (f64Operand_eq_none.2 ?_) s
    rintro ⟨hfin, hlegal⟩
    exact h ⟨hfin, (legalRatio_iff hfin).1 hlegal⟩

/-- Settles O17: a word is refused only where it is not finite. -/
theorem setpEqLoudRef : Obligations.SetpEqLoudRef := by
  refine fun opd s => ⟨decode_setpWord (pid := 0x38#8) rfl, fun hfin => ?_, fun h => ?_⟩
  · exact exec_of_legal (exec_setpEqLoudRef opd) (f64Operand_eq_some.2 ⟨rfl, hfin, rfl⟩) s
  · refine exec_of_illegal (exec_setpEqLoudRef opd) (f64Operand_eq_none.2 ?_) s
    rintro ⟨hfin, -⟩
    rcases h with h | h
    · exact absurd h (by simp [isNaN_of_isFinite hfin])
    · exact absurd h (by simp [isInf_of_isFinite hfin])

/-! ### Reading a knob back -/

theorem encode_of_boolOperand {opd : BitVec 64} (b : Bool) (h : boolOperand opd = some b) : encodeBool b = opd :=
  (boolOperand_eq_some h).symm

theorem encode_of_i64Operand {lo hi : Int} {opd : BitVec 64} (v : BitVec 64) (h : i64Operand lo hi opd = some v) :
    encodeI64 v = opd :=
  (i64Operand_eq_some.1 h).1

theorem encode_of_f64Operand {legal : F64 → Bool} {opd : BitVec 64} (v : F64) (h : f64Operand legal opd = some v) :
    encodeF64 v = opd :=
  congrArg F64.bits (f64Operand_eq_some.1 h).1

theorem bassRetune_strength (c : Config) (configured : Bool) (rate : F64) (b : BassBoost) :
    (bassRetune c configured rate b).strength = b.strength := by
  unfold bassRetune; split <;> rfl

theorem bassRetune_freq (c : Config) (configured : Bool) (rate : F64) (b : BassBoost) :
    (bassRetune c configured rate b).freq = b.freq := by
  unfold bassRetune; split <;> rfl

/-- After a SETP of `p` that answered OK, the GETP of `p` answers the operand (R258 (i)). -/
def ReadsBack (p : (BitVec 64 → Instr) × Instr) : Prop :=
  ∀ (opd : BitVec 64) (s t : State) (r : Response),
    exec (p.1 opd) s = .next t → t.response = some r → r.status = 0x00#8 → exec p.2 t = .next (reply t 0x00#8 opd none)

/-- A knob reads back where its GETP encodes what its SETP writes, and the encoding of a legal operand's value is the
operand. -/
theorem readsBack_of_setKnob {α : Type} {setp : BitVec 64 → Instr} {getp : Instr} {operand : BitVec 64 → Option α}
    {write : α → State → State} {read : State → α} {enc : α → BitVec 64}
    (hset : ∀ opd s, exec (setp opd) s = setKnob (operand opd) write s)
    (hget : ∀ s, exec getp s = complete (enc (read s)) s)
    (henc : ∀ {opd} v, operand opd = some v → enc v = opd)
    (hread : ∀ v s, read (reply (write v s) statusOk 0#64 none) = v) : ReadsBack (setp, getp) := by
  intro opd s t r h hr hok
  rw [hset] at h
  rcases setKnob_next h with ⟨-, rfl⟩ | ⟨v, hv, rfl⟩
  · obtain rfl := Option.some.inj hr
    exact absurd hok (by decide)
  · rw [hget, hread, henc v hv]
    rfl

theorem readsBack_knob : ∀ p ∈ knobPairs, ReadsBack p := by
  simp only [knobPairs, List.forall_mem_cons]
  exact ⟨readsBack_of_setKnob exec_setpMasterEn exec_getpMasterEn encode_of_boolOperand fun _ _ => rfl,
    readsBack_of_setKnob exec_setpCompEn exec_getpCompEn encode_of_boolOperand fun _ _ => rfl,
    readsBack_of_setKnob exec_setpCompRatio exec_getpCompRatio encode_of_f64Operand fun _ _ => rfl,
    readsBack_of_setKnob exec_setpBassEn exec_getpBassEn encode_of_boolOperand fun _ _ => rfl,
    readsBack_of_setKnob exec_setpBassStrength exec_getpBassStrength encode_of_i64Operand
      fun _ s => bassRetune_strength cfg s.configured s.rate _,
    readsBack_of_setKnob exec_setpBassFreq exec_getpBassFreq encode_of_f64Operand
      fun _ s => bassRetune_freq cfg s.configured s.rate _,
    readsBack_of_setKnob exec_setpEqEn exec_getpEqEn encode_of_boolOperand fun _ _ => rfl,
    readsBack_of_setKnob exec_setpEqBand0 exec_getpEqBand0 encode_of_i64Operand fun _ _ => rfl,
    readsBack_of_setKnob exec_setpEqBand1 exec_getpEqBand1 encode_of_i64Operand fun _ _ => rfl,
    readsBack_of_setKnob exec_setpEqBand2 exec_getpEqBand2 encode_of_i64Operand fun _ _ => rfl,
    readsBack_of_setKnob exec_setpEqBand3 exec_getpEqBand3 encode_of_i64Operand fun _ _ => rfl,
    readsBack_of_setKnob exec_setpEqBand4 exec_getpEqBand4 encode_of_i64Operand fun _ _ => rfl,
    readsBack_of_setKnob exec_setpEqBand5 exec_getpEqBand5 encode_of_i64Operand fun _ _ => rfl,
    readsBack_of_setKnob exec_setpEqLoudEn exec_getpEqLoudEn encode_of_boolOperand fun _ _ => rfl,
    readsBack_of_setKnob exec_setpEqLoudRef exec_getpEqLoudRef encode_of_f64Operand fun _ _ => rfl,
    readsBack_of_setKnob exec_setpVirtEn exec_getpVirtEn encode_of_boolOperand fun _ _ => rfl,
    readsBack_of_setKnob exec_setpVirtStrength exec_getpVirtStrength encode_of_i64Operand fun _ _ => rfl,
    List.forall_mem_nil _⟩

/-- Settles O23, knob by knob through `readsBack_of_setKnob`. -/
theorem readBack : Obligations.ReadBack := readsBack_knob

end Sys2Proof.Machine
end

section
/-! What a response can hold (R88, R270), and a PROCESS as the answer of its checks (R87, R205, R210). -/

namespace Sys2Proof.Machine

/-! ### PROCESS of a configured block -/

section
variable {n : BitVec 64} {s : State}

theorem exec_process_of_fault (hc : s.configured = true) {f : Fault} (hf : processFault n.toNat s = some f) :
    exec (.process n) s = .fault f := by
  rw [exec_process, processWith, hc, exceeds_cfg_blockMax, hf]
  rfl

theorem exec_process_of_no_fault (hc : s.configured = true) (hf : processFault n.toNat s = none) :
    exec (.process n) s =
      .next (reply (runBlock cfg n.toNat s).1 statusOk (activeResult (runBlock cfg n.toNat s).1)
        (some (runBlock cfg n.toNat s).2)) := by
  rw [exec_process, processWith, hc, exceeds_cfg_blockMax, hf]
  rfl

end

theorem processFault_of_length_ne {n : Nat} {s : State} (h : s.sin.length ≠ 2 * n) :
    processFault n s = some .blockLength := by
  rw [processFault, if_pos h]

/-- A block puts out as many words as it takes in. -/
theorem length_runBlock (c : Config) {n : Nat} {s : State} (h : s.sin.length = 2 * n) :
    (runBlock c n s).2.length = 2 * n :=
  runFrames_length _ _ _ _ h

/-- Settles O31: the hypotheses are those under which `processFault` finds nothing. -/
theorem processCompletes : Obligations.ProcessCompletes := by
  intro n s hc hlen hvirt heq
  have hf : processFault n.toNat s = none := by
    refine processFault_none.2 ⟨hlen, fun hv _ => hvirt hv, fun he h0 => ?_⟩
    have hinterval := heq he
    rw [h0] at hinterval
    exact absurd hinterval (by decide)
  exact ⟨_, _, exec_process_of_no_fault hc hf, length_runBlock cfg hlen, rfl, rfl⟩

/-- Settles O32: the size of the block is the first thing `processFault` looks at. -/
theorem processStopsOnWrongBlock : Obligations.ProcessStopsOnWrongBlock :=
  fun _ _ hc hlen => exec_process_of_fault hc (processFault_of_length_ne hlen)

/-! ### The opcode tells the kinds of command apart (R83) -/

theorem opcOf_encode_of_isSetp {i : Instr} (h : IsSetp i) : opcOf (encode i).1 = 0x02#8 := by
  obtain ⟨p, hp, opd, rfl⟩ := h
  revert p
  simp [knobPairs, encode]

theorem opcOf_encode_of_isGetp {i : Instr} (h : IsGetp i) : opcOf (encode i).1 = 0x03#8 := by
  obtain ⟨p, hp, rfl⟩ := h
  revert p
  simp [knobPairs, encode]

theorem opcOf_encode_configure (ch encsel : BitVec 8) (opd : BitVec 64) :
    opcOf (encode (.configure ch encsel opd)).1 = 0x01#8 := opcOf_packWord ..

theorem opcOf_encode_process (n : BitVec 64) : opcOf (encode (.process n)).1 = 0x04#8 := opcOf_packWord ..

/-! ### The shape of a response -/

/-- What R88 and R270 let a response to `i` hold. -/
def ResponseFits (i : Instr) (r : Response) : Prop :=
  r.status.toNat ≤ 5 ∧ r.status ≠ 0x01#8 ∧
  (r.status ≠ 0x00#8 → r.res = 0#64 ∧ r.sout = none) ∧
  (IsGetp i → r.status = 0x00#8) ∧
  (IsSetp i → r.res = 0#64) ∧
  (∀ ch encsel opd, i = .configure ch encsel opd → r.res = 0#64) ∧
  (∀ n, i = .process n → r.res = 0#64 ∨ r.res = 1#64) ∧
  (r.sout ≠ none ↔ (∃ n, i = .process n) ∧ r.status = 0x00#8)

section
variable {i : Instr}

theorem responseFits_error (hi : opcOf (encode i).1 ≠ 0x03#8) {code : BitVec 8}
    (hcode : code ∈ [eBadRate, eBadChannels, eParamRange, eNotConfigured]) : ResponseFits i ⟨code, 0#64, none⟩ := by
  have hrange : ∀ code ∈ [eBadRate, eBadChannels, eParamRange, eNotConfigured],
      code.toNat ≤ 5 ∧ code ≠ 0x01#8 ∧ code ≠ 0x00#8 := by decide
  obtain ⟨hle, hone, hzero⟩ := hrange code hcode
  exact ⟨hle, hone, fun _ => ⟨rfl, rfl⟩, fun hget => absurd (opcOf_encode_of_isGetp hget) hi, fun _ => rfl,
    fun _ _ _ _ => rfl, fun _ _ => .inl rfl, fun hsome => absurd rfl hsome, fun ⟨_, h0⟩ => absurd h0 hzero⟩

theorem responseFits_ok (hi : opcOf (encode i).1 ≠ 0x04#8) {res : BitVec 64}
    (hres : opcOf (encode i).1 ≠ 0x03#8 → res = 0#64) : ResponseFits i ⟨statusOk, res, none⟩ := by
  refine ⟨(by decide : statusOk.toNat ≤ 5), (by decide : statusOk ≠ 0x01#8), fun h => absurd rfl h, fun _ => rfl,
    fun hset => hres ?_, ?_, ?_,
    fun hsome => absurd rfl hsome, ?_⟩
  · rw [opcOf_encode_of_isSetp hset]; decide
  · rintro ch encsel opd rfl
    exact hres (by rw [opcOf_encode_configure]; decide)
  · rintro n rfl
    exact absurd (opcOf_encode_process n) hi
  · rintro ⟨⟨n, rfl⟩, -⟩
    exact absurd (opcOf_encode_process n) hi

theorem responseFits_process (n : BitVec 64) (s : State) (out : List F64) :
    ResponseFits (.process n) ⟨statusOk, activeResult s, some out⟩ := by
  refine ⟨(by decide : statusOk.toNat ≤ 5), (by decide : statusOk ≠ 0x01#8), fun h => absurd rfl h, fun _ => rfl,
    fun hset => ?_, nofun, fun _ _ => ?_, fun _ => ⟨⟨n, rfl⟩, rfl⟩, fun _ => nofun⟩
  · exact absurd ((opcOf_encode_process n).symm.trans (opcOf_encode_of_isSetp hset)) (by decide)
  · show activeResult s = 0#64 ∨ activeResult s = 1#64
    rw [activeResult]
    split
    · exact .inr rfl
    · exact .inl rfl

/-- `t` is an answer to `i` whose response fits `i`. -/
def FitsAnswer (i : Instr) (t : State) : Prop :=
  ∃ u status res sout, t = reply u status res sout ∧ ResponseFits i ⟨status, res, sout⟩

theorem fitsAnswer_of_setKnob {α : Type} {operand : Option α} {write : α → State → State} {s t : State}
    (hi : ∀ s, exec i s = setKnob operand write s) (hopc : opcOf (encode i).1 = 0x02#8) (h : exec i s = .next t) :
    FitsAnswer i t := by
  rw [hi] at h
  rcases setKnob_next h with ⟨-, rfl⟩ | ⟨v, -, rfl⟩
  · exact ⟨_, _, _, _, rfl, responseFits_error (by rw [hopc]; decide) (by simp)⟩
  · exact ⟨_, _, _, _, rfl, responseFits_ok (by rw [hopc]; decide) fun _ => rfl⟩

theorem fitsAnswer_of_complete {res : BitVec 64} {s t : State} (hopc : opcOf (encode i).1 = 0x03#8)
    (h : complete res s = .next t) : FitsAnswer i t := by
  obtain rfl := complete_next h
  exact ⟨_, _, _, _, rfl, responseFits_ok (by rw [hopc]; decide) fun hne => absurd hopc hne⟩

theorem fitsAnswer_of_configureWith {ch encsel : BitVec 8} {opd : BitVec 64} {s t : State}
    (h : configureWith cfg ch encsel opd s = .next t) : FitsAnswer (.configure ch encsel opd) t := by
  have hopc := opcOf_encode_configure ch encsel opd
  rcases configureWith_next h with ⟨e, he, rfl⟩ | ⟨-, rfl⟩
  · refine ⟨_, _, _, _, rfl, responseFits_error (by rw [hopc]; decide) ?_⟩
    rcases configureError_code he with rfl | rfl | rfl <;> simp
  · exact ⟨_, _, _, _, rfl, responseFits_ok (by rw [hopc]; decide) fun _ => rfl⟩

theorem fitsAnswer_of_processWith {n : BitVec 64} {s t : State} (h : processWith cfg n s = .next t) :
    FitsAnswer (.process n) t := by
  have hopc : opcOf (encode (.process n)).1 ≠ 0x03#8 := by rw [opcOf_encode_process]; decide
  rcases processWith_next h with ⟨-, rfl⟩ | ⟨-, -, rfl⟩ | ⟨-, -, -, rfl⟩
  · exact ⟨_, _, _, _, rfl, responseFits_error hopc (by simp)⟩
  · exact ⟨_, _, _, _, rfl, responseFits_error hopc (by simp)⟩
  · exact ⟨_, _, _, _, rfl, responseFits_process n _ _⟩

end

theorem exec_fitsAnswer {i : Instr} {s t : State} (h : exec i s = .next t) : FitsAnswer i t := by
  cases i with
  | configure ch encsel opd => exact fitsAnswer_of_configureWith h
  | process n => exact fitsAnswer_of_processWith h
  | setpMasterEn opd => exact fitsAnswer_of_setKnob (exec_setpMasterEn opd) (opcOf_packWord ..) h
  | setpCompEn opd => exact fitsAnswer_of_setKnob (exec_setpCompEn opd) (opcOf_packWord ..) h
  | setpCompRatio opd => exact fitsAnswer_of_setKnob (exec_setpCompRatio opd) (opcOf_packWord ..) h
  | setpBassEn opd => exact fitsAnswer_of_setKnob (exec_setpBassEn opd) (opcOf_packWord ..) h
  | setpBassStrength opd => exact fitsAnswer_of_setKnob (exec_setpBassStrength opd) (opcOf_packWord ..) h
  | setpBassFreq opd => exact fitsAnswer_of_setKnob (exec_setpBassFreq opd) (opcOf_packWord ..) h
  | setpEqEn opd => exact fitsAnswer_of_setKnob (exec_setpEqEn opd) (opcOf_packWord ..) h
  | setpEqBand0 opd => exact fitsAnswer_of_setKnob (exec_setpEqBand0 opd) (opcOf_packWord ..) h
  | setpEqBand1 opd => exact fitsAnswer_of_setKnob (exec_setpEqBand1 opd) (opcOf_packWord ..) h
  | setpEqBand2 opd => exact fitsAnswer_of_setKnob (exec_setpEqBand2 opd) (opcOf_packWord ..) h
  | setpEqBand3 opd => exact fitsAnswer_of_setKnob (exec_setpEqBand3 opd) (opcOf_packWord ..) h
  | setpEqBand4 opd => exact fitsAnswer_of_setKnob (exec_setpEqBand4 opd) (opcOf_packWord ..) h
  | setpEqBand5 opd => exact fitsAnswer_of_setKnob (exec_setpEqBand5 opd) (opcOf_packWord ..) h
  | setpEqLoudEn opd => exact fitsAnswer_of_setKnob (exec_setpEqLoudEn opd) (opcOf_packWord ..) h
  | setpEqLoudRef opd => exact fitsAnswer_of_setKnob (exec_setpEqLoudRef opd) (opcOf_packWord ..) h
  | setpVirtEn opd => exact fitsAnswer_of_setKnob (exec_setpVirtEn opd) (opcOf_packWord ..) h
  | setpVirtStrength opd => exact fitsAnswer_of_setKnob (exec_setpVirtStrength opd) (opcOf_packWord ..) h
  | getpMasterEn | getpCompEn | getpCompRatio | getpBassEn | getpBassStrength | getpBassFreq | getpEqEn | getpEqBand0
  | getpEqBand1 | getpEqBand2 | getpEqBand3 | getpEqBand4 | getpEqBand5 | getpEqLoudEn | getpEqLoudRef | getpVirtEn
  | getpVirtStrength => exact fitsAnswer_of_complete (opcOf_packWord ..) h

/-- Settles O30: each kind of command has one shared operation, and `ResponseFits` holds of all that can answer. -/
theorem responseShape : Obligations.ResponseShape := by
  intro i s t h
  obtain ⟨u, status, res, sout, rfl, hfits⟩ := exec_fitsAnswer h
  exact ⟨⟨status, res, sout⟩, rfl, rfl, hfits⟩

end Sys2Proof.Machine
end

section
/-! Finite words by the real numbers they stand for: an operation whose exact result is itself a word answers that word
(R12), and what the operations do with zeros, infinities and NaNs. -/

namespace Sys2Proof.Machine

/-! ### A word and its value -/

section
variable {x y z : F64} {u v w : ℝ}

theorem isZero_iff : isZero x = true ↔ toReal x = 0 := by
  rw [← abs_eq_zero, abs_toReal, ← magReal_zero, magReal_strictMono.injective.eq_iff]
  exact decide_eq_true_iff

theorem isFinite_of_isZero (h : isZero x = true) : isFinite x = true := by
  rw [isFinite_iff, of_decide_eq_true h]
  decide

theorem eq_of_toReal_eq_of_fsign (hv : toReal x = toReal y) (hs : fsign x = fsign y) : x = y := by
  have hmag : fmag x = fmag y := magReal_strictMono.injective (by rw [← abs_toReal, ← abs_toReal, hv])
  rw [← ofParts_fsign_fmag x, ← ofParts_fsign_fmag y, hs, hmag]

theorem toReal_ne_zero (h : isZero x = false) : toReal x ≠ 0 := fun h0 => by
  rw [isZero_iff.2 h0] at h
  cases h

theorem fsign_iff (h : isZero x = false) : fsign x = true ↔ toReal x < 0 := by
  have hmag : 0 < magReal (fmag x) := by rw [← abs_toReal]; exact abs_pos.2 (toReal_ne_zero h)
  rw [toReal_eq]
  cases fsign x
  · simpa using hmag.le
  · simpa using hmag

/-- Only the zeros share their value. -/
theorem eq_of_toReal_eq (hy : isZero y = false) (hv : toReal x = toReal y) : x = y := by
  have hx : isZero x = false := Bool.eq_false_iff.2 fun h => toReal_ne_zero hy (hv ▸ isZero_iff.1 h)
  exact eq_of_toReal_eq_of_fsign hv (Bool.eq_iff_iff.2 (by rw [fsign_iff hx, fsign_iff hy, hv]))

/-- The word `x` is finite and stands for `v`. -/
def HasValue (x : F64) (v : ℝ) : Prop := isFinite x = true ∧ toReal x = v

theorem hasValue_toReal (h : isFinite x = true) : HasValue x (toReal x) := ⟨h, rfl⟩

theorem hasValue_zero_iff : HasValue x 0 ↔ isZero x = true :=
  ⟨fun h => isZero_iff.2 h.2, fun h => ⟨isFinite_of_isZero h, isZero_iff.1 h⟩⟩

theorem hasValue_i2d {n : Int} (hn : |n| ≤ 2 ^ 53) : HasValue (i2d n) n := toReal_i2d hn

theorem hasValue_posZero : HasValue posZero 0 := hasValue_zero_iff.2 (by decide)

theorem hasValue_fone : HasValue fone 1 := by
  have h : fone = i2d 1 := by decide +kernel
  rw [h]
  exact_mod_cast hasValue_i2d (n := 1) (by norm_num)

theorem hasValue_two : HasValue two 2 := by
  have h : two = i2d 2 := by decide +kernel
  rw [h]
  exact_mod_cast hasValue_i2d (n := 2) (by norm_num)

/-! ### Results that are words -/

/-- A number that a word stands for rounds to it. -/
theorem RoundsTo.hasValue (h : RoundsTo x w) (hz : HasValue z w) : HasValue x w := by
  obtain ⟨hfin, rfl⟩ := hz
  exact h.toReal_eq hfin

theorem HasValue.add (hx : HasValue x u) (hy : HasValue y v) (hz : HasValue z w) (h : u + v = w) :
    HasValue (fadd x y) w := by
  obtain ⟨hx, rfl⟩ := hx
  obtain ⟨hy, rfl⟩ := hy
  obtain ⟨hsum, -⟩ := sumAndProductRound x y hx hy
  exact (h ▸ hsum).hasValue hz

theorem HasValue.sub (hx : HasValue x u) (hy : HasValue y v) (hz : HasValue z w) (h : u - v = w) :
    HasValue (fsub x y) w := by
  obtain ⟨hx, rfl⟩ := hx
  obtain ⟨hy, rfl⟩ := hy
  obtain ⟨-, hdiff, -⟩ := sumAndProductRound x y hx hy
  exact (h ▸ hdiff).hasValue hz

theorem HasValue.mul (hx : HasValue x u) (hy : HasValue y v) (hz : HasValue z w) (h : u * v = w) :
    HasValue (fmul x y) w := by
  obtain ⟨hx, rfl⟩ := hx
  obtain ⟨hy, rfl⟩ := hy
  exact (h ▸ roundsTo_fmul hx hy).hasValue hz

theorem HasValue.add_isZero (hx : HasValue x v) (hy : isZero y = true) : HasValue (fadd x y) v :=
  hx.add (hasValue_zero_iff.2 hy) hx (add_zero v)

theorem HasValue.sub_isZero (hx : HasValue x v) (hy : isZero y = true) : HasValue (fsub x y) v :=
  hx.sub (hasValue_zero_iff.2 hy) hx (sub_zero v)

theorem isZero_fmul_left (hx : isZero x = true) (hy : isFinite y = true) : isZero (fmul x y) = true :=
  hasValue_zero_iff.1 ((hasValue_zero_iff.2 hx).mul (hasValue_toReal hy) hasValue_posZero (zero_mul _))

theorem isZero_fmul_right (hx : isFinite x = true) (hy : isZero y = true) : isZero (fmul x y) = true :=
  hasValue_zero_iff.1 ((hasValue_toReal hx).mul (hasValue_zero_iff.2 hy) hasValue_posZero (mul_zero _))

theorem fsign_fmul (hx : isFinite x = true) (hy : isFinite y = true) : fsign (fmul x y) = (fsign x != fsign y) := by
  rw [fmul_of_isFinite hx hy, fsign_roundPack]

/-- 1.0 is neutral, on zeros too. -/
theorem fone_fmul (hx : isFinite x = true) : fmul fone x = x := by
  have hv := hasValue_fone.mul (hasValue_toReal hx) (hasValue_toReal hx) (one_mul _)
  refine eq_of_toReal_eq_of_fsign hv.2 ?_
  rw [fsign_fmul hasValue_fone.1 hx, (by decide : fsign fone = false), Bool.false_bne]

theorem fmul_fone (hx : isFinite x = true) : fmul x fone = x := by
  have hv := (hasValue_toReal hx).mul hasValue_fone (hasValue_toReal hx) (mul_one _)
  refine eq_of_toReal_eq_of_fsign hv.2 ?_
  rw [fsign_fmul hx hasValue_fone.1, (by decide : fsign fone = false), Bool.bne_false]

/-- A sign moves from one factor to the other. -/
theorem fneg_fmul (hx : isFinite x = true) (hy : isFinite y = true) : fmul (fneg x) y = fmul x (fneg y) := by
  have hsig (a : F64) : fsig (fneg a) = fsig a := by rw [fsig, fmag_fneg, fsig]
  have hexpo (a : F64) : fexpo (fneg a) = fexpo a := by rw [fexpo, fmag_fneg, fexpo]
  rw [fmul_of_isFinite (isFinite_fneg hx) hy, fmul_of_isFinite hx (isFinite_fneg hy), fsign_fneg, fsign_fneg, hsig,
    hsig, hexpo, hexpo]
  cases fsign x <;> cases fsign y <;> rfl

theorem fdiv_self (hx : isFinite x = true) (hx0 : isZero x = false) : fdiv x x = fone := by
  have hround := roundsTo_fdiv hx hx hx0
  rw [div_self (toReal_ne_zero hx0)] at hround
  exact eq_of_toReal_eq (by decide) ((hround.hasValue hasValue_fone).2.trans hasValue_fone.2.symm)

end

/-! ### Results that are not finite -/

section
variable {x y : F64}

theorem isNaN_nanResult (op : FloatOp) (x y : F64) : isNaN (nanResult op x y) = true := by
  refine decide_eq_true (lt_of_lt_of_le (b := 0x7FF8000000000000) (by decide) ?_)
  have hmag : fmag (nanResult op x y) = ((nanResult op x y).bits.setWidth 63).toNat := (BitVec.toNat_setWidth ..).symm
  rw [hmag, nanResult, BitVec.setWidth_or, BitVec.toNat_or]
  exact Nat.right_le_or

theorem not_finite_of_isNaN (h : isNaN x = true) : isFinite x = false := by
  rw [isFinite_eq, h]; rfl

theorem not_finite_ofParts_infMag (neg : Bool) : isFinite (ofParts neg infMag) = false := by
  cases neg <;> decide

theorem not_finite_of_isInf (h : isInf x = true) : isFinite x = false := by
  rw [isFinite_eq, h, Bool.not_true, Bool.and_false]

theorem isNaN_or_isInf (h : isFinite x = false) : isNaN x = true ∨ isInf x = true := by
  rw [isFinite_eq] at h
  cases hn : isNaN x <;> simp_all

theorem isNaN_fadd_right (h : isNaN y = true) : isNaN (fadd x y) = true := by
  rw [fadd, addWith, h, Bool.or_true, if_pos rfl]
  exact isNaN_nanResult ..

theorem isNaN_fdiv_right (h : isNaN y = true) : isNaN (fdiv x y) = true := by
  rw [fdiv, h, Bool.or_true]
  exact isNaN_nanResult ..

/-- A quotient by a zero is an infinity or a NaN. -/
theorem not_finite_fdiv_of_isZero (h : isZero y = true) : isFinite (fdiv x y) = false := by
  have hy := isFinite_of_isZero h
  simp only [fdiv, isNaN_of_isFinite hy, isInf_of_isFinite hy, h, Bool.or_false, Bool.false_eq_true, if_false, if_true]
  split_ifs
  · exact not_finite_of_isNaN (isNaN_nanResult ..)
  · exact not_finite_ofParts_infMag _
  · exact not_finite_of_isNaN (isNaN_nanResult ..)
  · exact not_finite_ofParts_infMag _

/-- A zero times an infinity or a NaN is a NaN. -/
theorem isNaN_fmul_of_isZero_left (hx : isZero x = true) (hy : isFinite y = false) : isNaN (fmul x y) = true := by
  rcases isNaN_or_isInf hy with h | h <;> simp [fmul, h, hx, isNaN_nanResult]

/-- A finite product has a finite second factor: an infinity or a NaN there would show. -/
theorem isFinite_right_of_fmul (h : isFinite (fmul x y) = true) : isFinite y = true := by
  by_contra hy
  rw [Bool.not_eq_true] at hy
  refine Bool.eq_false_iff.1 ?_ h
  rcases isNaN_or_isInf hy with hn | hn <;> simp only [fmul, hn, Bool.or_true, if_true]
  · exact not_finite_of_isNaN (isNaN_nanResult ..)
  · split_ifs
    · exact not_finite_of_isNaN (isNaN_nanResult ..)
    · exact not_finite_of_isNaN (isNaN_nanResult ..)
    · exact not_finite_ofParts_infMag _

/-- A finite difference has a finite second operand. -/
theorem isFinite_right_of_fsub (h : isFinite (fsub x y) = true) : isFinite y = true := by
  by_contra hy
  have hneg : isFinite (fneg y) = false := by rwa [isFinite, fmag_fneg, ← isFinite, ← Bool.not_eq_true]
  refine Bool.eq_false_iff.1 ?_ h
  rcases isNaN_or_isInf hneg with hn | hn <;> simp only [fsub, addWith, hn, Bool.or_true, if_true]
  · exact not_finite_of_isNaN (isNaN_nanResult ..)
  · split_ifs with hnan hx
    · exact not_finite_of_isNaN (isNaN_nanResult ..)
    · exact not_finite_of_isNaN (isNaN_nanResult ..)
    · exact not_finite_of_isInf hx
    · exact hneg

end

end Sys2Proof.Machine
end

section
/-! Biquads (40_biquad.md): installing a set (R108), the identity set and the zero history (R112), and the designs with
their corner cases (R104 to R107, R114). -/

namespace Sys2Proof.Machine

/-! ### Installing a set -/

theorem bqInstall_of_ne_zero {n : BitVec 32} (h : n ≠ 0#32) (new : Coeffs) (b : Biquad) :
    bqInstall new n b = { b with tgt := new, rem := n } := if_neg h

/-- Settles O40: `bqInstall` by its two branches, and the step of R111 from the current set it leaves. -/
theorem installStartsFromCurrent : Obligations.InstallStartsFromCurrent := by
  refine ⟨fun _ _ => rfl, fun new n b h => bqInstall_of_ne_zero h new b, fun b new hcur hnew => ⟨hnew, hcur, rfl⟩,
    fun new n b x hn => ?_⟩
  intro toward
  split_ifs with h1
  · rw [bqProcess_cur_of_rem_one (by rw [bqInstall_rem, h1]), bqInstall_tgt]
  · rw [bqProcess_cur_of_two_le (by rw [bqInstall_rem]; bv_omega), bqInstall_of_ne_zero hn]
    rfl

/-! ### A call whose products with the history are zeros -/

section
variable {b : Biquad} {x w : F64} {v : ℝ}

theorem bqW_hasValue (hx : HasValue x v) (h1 : isZero (fmul b.cur.b1 b.w1) = true)
    (h2 : isZero (fmul b.cur.b2 b.w2) = true) : HasValue (bqW b x) v :=
  (hx.sub_isZero h1).sub_isZero h2

theorem bqY_hasValue (hw : HasValue (fmul b.cur.a0 w) v) (h1 : isZero (fmul b.cur.a1 b.w1) = true)
    (h2 : isZero (fmul b.cur.a2 b.w2) = true) : HasValue (bqY b w) v :=
  (hw.add_isZero h1).add_isZero h2

theorem bqProcess_w1 (b : Biquad) (x : F64) : (bqProcess b x).1.w1 = bqW b x := bqStep_w1 _

theorem bqProcess_w2 (b : Biquad) (x : F64) : (bqProcess b x).1.w2 = b.w1 := bqStep_w2 _

/-- The identity set keeps the value of its input: its products with the history are zeros. -/
theorem bqProcess_identity (hb : b.cur = Coeffs.identity) (h1 : isFinite b.w1 = true) (h2 : isFinite b.w2 = true)
    (hx : isFinite x = true) :
    HasValue (bqProcess b x).1.w1 (toReal x) ∧ HasValue (bqProcess b x).2 (toReal x) := by
  have hz1 : isZero (fmul posZero b.w1) = true := isZero_fmul_left (by decide) h1
  have hz2 : isZero (fmul posZero b.w2) = true := isZero_fmul_left (by decide) h2
  have hw : HasValue (bqW b x) (toReal x) := bqW_hasValue (hasValue_toReal hx) (by rwa [hb]) (by rwa [hb])
  have hprod : HasValue (fmul b.cur.a0 (bqW b x)) (toReal x) := by
    rw [hb]
    exact (fone_fmul hw.1).symm ▸ hw
  rw [bqProcess_w1]
  exact ⟨hw, bqY_hasValue hprod (by rwa [hb]) (by rwa [hb])⟩

end

/-- Settles O38: only a zero shares its value with another word. -/
theorem identitySetPasses : Obligations.IdentitySetPasses := by
  intro b x hb h1 h2 hx
  obtain ⟨hw, hy⟩ := bqProcess_identity hb h1 h2 hx
  refine ⟨fun h0 => ⟨eq_of_toReal_eq h0 hy.2, eq_of_toReal_eq h0 hw.2⟩, fun h0 => ?_⟩
  rw [isZero_iff] at h0
  exact ⟨isZero_iff.2 (hy.2.trans h0), isZero_iff.2 (hw.2.trans h0)⟩

/-- No ramp under way, a finite set, and a zero history: what a call on a zero keeps (R112 (iii)). -/
structure Silent (b : Biquad) : Prop where
  rem : b.rem = 0#32
  finite : FiniteSet b.cur
  w1 : isZero b.w1 = true
  w2 : isZero b.w2 = true

section
variable {b : Biquad} {x : F64}

theorem Silent.isZero_bqW (h : Silent b) (hx : isZero x = true) : isZero (bqW b x) = true := by
  obtain ⟨-, -, -, hb1, hb2⟩ := h.finite
  exact hasValue_zero_iff.1
    (bqW_hasValue (hasValue_zero_iff.2 hx) (isZero_fmul_right hb1 h.w1) (isZero_fmul_right hb2 h.w2))

theorem Silent.isZero_out (h : Silent b) (hx : isZero x = true) : isZero (bqProcess b x).2 = true := by
  obtain ⟨ha0, ha1, ha2, -, -⟩ := h.finite
  exact hasValue_zero_iff.1 (bqY_hasValue (hasValue_zero_iff.2 (isZero_fmul_right ha0 (h.isZero_bqW hx)))
    (isZero_fmul_right ha1 h.w1) (isZero_fmul_right ha2 h.w2))

theorem Silent.next (h : Silent b) (hx : isZero x = true) : Silent (bqProcess b x).1 where
  rem := by rw [bqProcess_rem, if_pos h.rem]
  finite := by rw [bqProcess_cur_of_rem_zero h.rem]; exact h.finite
  w1 := by rw [bqProcess_w1]; exact h.isZero_bqW hx
  w2 := by rw [bqProcess_w2]; exact h.w1

theorem Silent.calls {xs : List F64} (h : Silent b) (hxs : ∀ x ∈ xs, isZero x = true) :
    Silent (bqCalls b xs) ∧ (bqCalls b xs).cur = b.cur := by
  induction xs generalizing b with
  | nil => exact ⟨h, rfl⟩
  | cons x xs ih =>
    obtain ⟨hx, hxs⟩ := List.forall_mem_cons.1 hxs
    obtain ⟨hsilent, hcur⟩ := ih (h.next hx) hxs
    exact ⟨hsilent, hcur.trans (bqProcess_cur_of_rem_zero h.rem x)⟩

end

/-- Settles O41: every call on a zero keeps the filter silent. -/
theorem zeroStaysZero : Obligations.ZeroStaysZero := by
  intro b xs hrem hfin h1 h2 hxs
  obtain ⟨hsilent, hcur⟩ := Silent.calls ⟨hrem, hfin, h1, h2⟩ hxs
  exact ⟨hsilent.w1, hsilent.w2, hcur, fun x hx => hsilent.isZero_out hx⟩

/-! ### The designs written out -/

section
variable {c : Config} (h : c.bqDesign = .cookbook) (f rate p dBGain overallDb : F64)
include h

theorem bqDesign_lowpass :
    bqDesign c .lowpass f rate p dBGain overallDb = normalise (designLowpass c f rate p) := by
  rw [bqDesign, designTerms_lowpass h]

theorem bqDesign_bandpass :
    bqDesign c .bandpass f rate p dBGain overallDb = normalise (designBandpass c f rate p) := by
  rw [bqDesign, designTerms_bandpass h]

theorem bqDesign_highshelf :
    bqDesign c .highshelf f rate p dBGain overallDb = normalise (designHighshelf c f rate p dBGain overallDb) := by
  rw [bqDesign, designTerms_highshelf h]

end

/-! ### A shelf of gain 0 dB -/

/-- A product by 2 of a word that is not zero is not zero: the word itself is nearer to it. -/
theorem isZero_fmul_two {y : F64} (hy : isFinite y = true) (hy0 : isZero y = false) : isZero (fmul two y) = false := by
  refine Bool.eq_false_iff.2 fun h0 => toReal_ne_zero hy0 ?_
  obtain ⟨hfinite, hoverflow⟩ := roundsTo_fmul hasValue_two.1 hy
  rw [hasValue_two.2] at hfinite hoverflow
  rcases lt_or_ge |2 * toReal y| ((2 ^ 54 - 1) * (2 : ℝ) ^ (970 : ℤ)) with hlt | hge
  · obtain ⟨-, hnear⟩ := hfinite hlt
    have hle := (hnear y hy).1
    rw [isZero_iff.1 h0, zero_sub, abs_neg, abs_mul, abs_two, (by ring : toReal y - 2 * toReal y = -toReal y),
      abs_neg] at hle
    exact abs_nonpos_iff.1 (by linarith)
  · have hfin := isFinite_of_isZero h0
    rw [hoverflow hge, not_finite_ofParts_infMag] at hfin
    cases hfin

/-- The terms of R106 at gain 0 dB and flat gain 0 dB, where `A` and the flat gain are 1.0: `cs` is the cosine and `t`
the rule's `2.0 × sqA × alpha`. -/
def flatShelfTerms (cs t : F64) : DesignTerms :=
  { n0 := fmul (fmul fone (fadd (fadd two (fmul posZero cs)) t)) fone
    n1 := fmul (fmul (fmul negTwo fone) (fadd posZero (fmul two cs))) fone
    n2 := fmul (fmul fone (fsub (fadd two (fmul posZero cs)) t)) fone
    d0 := fadd (fsub two (fmul posZero cs)) t
    d1 := fmul two (fsub posZero (fmul two cs))
    d2 := fsub (fsub two (fmul posZero cs)) t }

/-- In both shelf modes. -/
theorem designHighshelf_flat (c : Config) (f rate p : F64) :
    ∃ t, designHighshelf c f rate p posZero posZero = flatShelfTerms (fcos c (designW0 f rate)) t := by
  have hpow (x : F64) (hx : isZero x = true) : fpow10 c x = fone := if_pos hx
  have ha : fpow10 c (fdiv posZero forty) = fone := hpow _ (by decide +kernel)
  have hg : fpow10 c (fdiv posZero twenty) = fone := hpow _ (by decide +kernel)
  have hup : fadd fone fone = two := by decide +kernel
  have hdown : fsub fone fone = posZero := by decide +kernel
  refine ⟨fmul (fmul two (fsqrt fone)) (shelfAlpha c.shelfParamMode (fsin c (designW0 f rate)) fone p), ?_⟩
  simp only [designHighshelf, ha, hg, hup, hdown, flatShelfTerms]

section
variable {cs t : F64}

/-- A finite `d1` has a finite cosine: neither the product nor the difference makes an infinity or a NaN finite. -/
theorem isFinite_of_flatShelfTerms_d1 (h : isFinite (flatShelfTerms cs t).d1 = true) :
    isFinite (fmul two cs) = true ∧ isFinite cs = true := by
  have hprod : isFinite (fmul two cs) = true := isFinite_right_of_fsub (isFinite_right_of_fmul h)
  exact ⟨hprod, isFinite_right_of_fmul hprod⟩

/-- With `A = 1.0` the terms in `A − 1.0` vanish. -/
theorem fadd_fsub_two_fmul_posZero (h : isFinite cs = true) :
    fadd two (fmul posZero cs) = two ∧ fsub two (fmul posZero cs) = two := by
  have hz : isZero (fmul posZero cs) = true := isZero_fmul_left (by decide) h
  have htwo : isZero two = false := by decide
  exact ⟨eq_of_toReal_eq htwo ((hasValue_two.add_isZero hz).2.trans hasValue_two.2.symm),
    eq_of_toReal_eq htwo ((hasValue_two.sub_isZero hz).2.trans hasValue_two.2.symm)⟩

theorem isZero_fneg (x : F64) : isZero (fneg x) = isZero x := by rw [isZero, fmag_fneg, isZero]

/-- From +0.0, a sum with a word that is not zero is the word, and a difference its negative. -/
theorem fadd_fsub_posZero {y : F64} (hy : isFinite y = true) (hy0 : isZero y = false) :
    fadd posZero y = y ∧ fsub posZero y = fneg y := by
  have hv := hasValue_toReal hy
  have hneg := hasValue_toReal (isFinite_fneg hy)
  have hneg0 : isZero (fneg y) = false := (isZero_fneg y).trans hy0
  exact ⟨eq_of_toReal_eq hy0 (hasValue_posZero.add hv hv (zero_add _)).2,
    eq_of_toReal_eq hneg0 (hasValue_posZero.sub hv hneg (by rw [toReal_fneg, zero_sub])).2⟩

/-- Bit for bit the numerator is the denominator: the outer terms are 2.0 with `t` added or taken away, and the middle
one moves its sign between its factors. -/
theorem flatShelfTerms_numerator (hcs : isZero cs = false) (h0 : isFinite (flatShelfTerms cs t).d0 = true)
    (h1 : isFinite (flatShelfTerms cs t).d1 = true) (h2 : isFinite (flatShelfTerms cs t).d2 = true) :
    (flatShelfTerms cs t).n0 = (flatShelfTerms cs t).d0 ∧ (flatShelfTerms cs t).n1 = (flatShelfTerms cs t).d1 ∧
      (flatShelfTerms cs t).n2 = (flatShelfTerms cs t).d2 := by
  obtain ⟨hprod, hfin⟩ := isFinite_of_flatShelfTerms_d1 h1
  obtain ⟨hsum, hdiff⟩ := fadd_fsub_two_fmul_posZero hfin
  obtain ⟨hmid, hmidNeg⟩ := fadd_fsub_posZero hprod (isZero_fmul_two hfin hcs)
  have hnegTwo : fmul negTwo fone = fneg two := by decide +kernel
  simp only [flatShelfTerms, hsum, hdiff, hmid, hmidNeg, hnegTwo] at h0 h1 h2 ⊢
  refine ⟨?_, ?_, ?_⟩
  · rw [fone_fmul h0, fmul_fone h0]
  · rw [fneg_fmul hasValue_two.1 hprod, fmul_fone h1]
  · rw [fone_fmul h2, fmul_fone h2]

end

theorem normalise_of_numerator_eq {t : DesignTerms} (h0 : t.n0 = t.d0) (h1 : t.n1 = t.d1) (h2 : t.n2 = t.d2)
    (hfin : isFinite t.d0 = true) (hz : isZero t.d0 = false) :
    normalise t = ⟨fone, (normalise t).b1, (normalise t).b2, (normalise t).b1, (normalise t).b2⟩ := by
  simp only [normalise, h0, h1, h2, fdiv_self hfin hz]

/-! ### A band-pass at a zero sine -/

/-- The argument of `fsinh` is not finite, so its value is not, and a zero times it is a NaN (R105 corner case). -/
theorem isNaN_bandpass_alpha (c : Config) {sn : F64} (h : isZero sn = true) (z : F64) :
    isNaN (fmul sn (fsinh c (fdiv z sn))) = true :=
  isNaN_fmul_of_isZero_left h (fsinh_not_finite c (not_finite_fdiv_of_isZero h))

theorem normalise_of_isNaN_d0 {t : DesignTerms} (h : isNaN t.d0 = true) :
    isNaN (normalise t).a0 = true ∧ isNaN (normalise t).a1 = true ∧ isNaN (normalise t).a2 = true ∧
      isNaN (normalise t).b1 = true ∧ isNaN (normalise t).b2 = true :=
  ⟨isNaN_fdiv_right h, isNaN_fdiv_right h, isNaN_fdiv_right h, isNaN_fdiv_right h, isNaN_fdiv_right h⟩

/-- Settles O42: the designs by `normalise` of their terms; the flat shelf by `flatShelfTerms_numerator`; the band-pass
by the NaN that its `alpha` passes to the leading denominator term. -/
theorem flatShelfIsUnity : Obligations.FlatShelfIsUnity := by
  refine ⟨fun c f rate p dBGain overallDb h => ⟨?_, ?_, ?_⟩, fun c f rate p => ?_,
    fun c f rate bw dBGain overallDb h => ?_⟩
  · exact bqDesign_lowpass h f rate p dBGain overallDb
  · exact bqDesign_bandpass h f rate p dBGain overallDb
  · rw [bqDesign_highshelf h, designHighshelf, shelfAlpha_eq]
    rfl
  · obtain ⟨t, ht⟩ := designHighshelf_flat c f rate p
    rw [ht]
    intro _ hcs h0 h1 h2 hz
    obtain ⟨hn0, hn1, hn2⟩ := flatShelfTerms_numerator hcs h0 h1 h2
    exact ⟨hn0, hn1, hn2, normalise_of_numerator_eq hn0 hn1 hn2 h0 hz⟩
  · intro w0 sn half hsn
    have halpha := isNaN_bandpass_alpha c hsn (fmul (fmul half bw) w0)
    refine ⟨halpha, ?_⟩
    rw [bqDesign_bandpass h]
    exact normalise_of_isNaN_d0 (isNaN_fadd_right halpha)

end Sys2Proof.Machine
end

section
/-! The bass knobs (R227, R228) and a refresh of the equalizer (R172 to R178, R183). -/

namespace Sys2Proof.Machine

/-! ### The bass knobs -/

theorem i64Operand_eq_none {lo hi : Int} {opd : BitVec 64} :
    i64Operand lo hi opd = none ↔ ¬(lo ≤ opd.toInt ∧ opd.toInt ≤ hi) := by
  unfold i64Operand
  split_ifs with h <;> simp [h]

/-- The comparison of R228 as a real number. -/
theorem legalFreq_iff {v : F64} (hv : isFinite v = true) : legalFreq v = true ↔ 0 < toReal v := by
  rw [legalFreq, flt_iff (isNaN_of_isFinite hasValue_posZero.1) (isNaN_of_isFinite hv), hasValue_posZero.2]

/-- A retune writes the filter alone, and only of a configured block (R162). -/
theorem bassRetune_eq (c : Config) (configured : Bool) (rate : F64) (b : BassBoost) :
    bassRetune c configured rate b =
      { b with
        lp :=
          if configured then bqInstall (bqDesign c .lowpass b.freq rate b.q posZero posZero) c.bassInterval b.lp
          else b.lp } := by
  cases configured <;> rfl

/-- Settles O14: the legal words are those `i64Operand` names, and the retune is `bassRetune_eq`. -/
theorem setpBassStrength : Obligations.SetpBassStrength := by
  refine fun opd s => ⟨decode_setpWord (pid := 0x21#8) rfl, fun h => ?_, fun h => ?_⟩
  · rw [exec_of_legal (exec_setpBassStrength opd) (i64Operand_eq_some.2 ⟨rfl, h⟩), setBassStrength, bassRetune_eq]
    rfl
  · exact exec_of_illegal (exec_setpBassStrength opd) (i64Operand_eq_none.2 h) s

/-- Settles O15: the legal words are those `legalFreq_iff` describes, and the retune is `bassRetune_eq`. -/
theorem setpBassFreq : Obligations.SetpBassFreq := by
  refine fun opd s => ⟨decode_setpWord (pid := 0x22#8) rfl, fun ⟨hfin, hpos⟩ => ?_, fun h => ?_⟩
  · rw [exec_of_legal (exec_setpBassFreq opd) (f64Operand_eq_some.2 ⟨rfl, hfin, (legalFreq_iff hfin).2 hpos⟩),
      setBassFreq, bassRetune_eq]
  · refine exec_of_illegal (exec_setpBassFreq opd) (f64Operand_eq_none.2 ?_) s
    rintro ⟨hfin, hlegal⟩
    exact h ⟨hfin, (legalFreq_iff hfin).1 hlegal⟩

/-! ### A refresh of the equalizer, with its numbers -/

theorem bandGainDb_eq (e : Equalizer) (loud : F64) (user : BitVec 64) (v20 v100 : F64) :
    bandGainDb e loud user v20 v100 =
      fmul (fadd (fdiv (i2d user.toInt) hundred) (if e.loudEn then loudAdj v20 v100 loud e.loudRef else posZero))
        (fdiv (i2d e.fade.toNat) ⟨0x4059000000000000#64⟩) := by
  rw [bandGainDb, fadeFraction, fadeMaxF_eq]

theorem loudAdj_eq (v20 v100 loud loudRef : F64) :
    loudAdj v20 v100 loud loudRef =
      (let lv := fadd loud loudRef
       let lv := if fgt lv eqLoudHi then eqLoudHi else lv
       let lv := if flt lv eqLoudLo then eqLoudLo else lv
       fadd v20 (fmul (fsub v100 v20) (fdiv (fsub lv eqLoudLo) ⟨0x4054000000000000#64⟩))) := by
  rw [loudAdj, eqLoudSpan_eq]

/-- The five corners of R172, each shelf a `configure` of R103. -/
theorem refreshShelves_eq (c : Config) (interval : BitVec 32) (rate : F64) (g : BandTable) (s : Shelves) :
    refreshShelves c interval rate g s =
      (let shelf (corner lo hi overallDb : F64) (b : Biquad) : Biquad :=
         bqConfigure c .highshelf interval corner rate c.eqShelfSlope (fsub hi lo) overallDb b
       { k0 := shelf ⟨0x403F400000000000#64⟩ g.b0 g.b1 g.b0 s.k0
         k1 := shelf ⟨0x405F400000000000#64⟩ g.b1 g.b2 posZero s.k1
         k2 := shelf ⟨0x407F400000000000#64⟩ g.b2 g.b3 posZero s.k2
         k3 := shelf ⟨0x409F400000000000#64⟩ g.b3 g.b4 posZero s.k3
         k4 := shelf ⟨0x40BF400000000000#64⟩ g.b4 g.b5 posZero s.k4 }) := by
  rw [refreshShelves, eqCorner_zero, eqCorner_one, eqCorner_two, eqCorner_three, eqCorner_four]
  rfl

/-! ### A flat equalizer -/

/-- A fade is a finite fraction without a sign. -/
theorem fadeFraction_finite (fade : BitVec 8) :
    isFinite (fadeFraction fade) = true ∧ fsign (fadeFraction fade) = false := by
  have hfade : fade.toNat ≤ 256 := fade.isLt.le
  obtain ⟨hnum, hnumVal⟩ := hasValue_i2d (n := fade.toNat) (by rw [Nat.abs_cast]; omega)
  obtain ⟨hden, hdenVal⟩ : HasValue fadeMaxF 100 := by exact_mod_cast hasValue_i2d (n := 100) (by norm_num)
  have hden0 : isZero fadeMaxF = false := by rw [fadeMaxF_eq]; decide
  have hlt : |toReal (i2d fade.toNat) / toReal fadeMaxF| < (2 ^ 54 - 1) * (2 : ℝ) ^ (970 : ℤ) := by
    rw [hnumVal, hdenVal, Int.cast_natCast, abs_of_nonneg (by positivity)]
    calc (fade.toNat : ℝ) / 100 ≤ 256 / 100 := by gcongr; exact_mod_cast hfade
      _ < (2 ^ 54 - 1) * 1 := by norm_num
      _ ≤ (2 ^ 54 - 1) * (2 : ℝ) ^ (970 : ℤ) := by
        gcongr
        exact one_le_zpow₀ one_le_two (by norm_num)
  refine ⟨((roundsTo_fdiv hnum hden hden0).1 hlt).1, ?_⟩
  have hneg : ¬(fade.toNat : ℤ) < 0 := by omega
  rw [fadeFraction, fdiv_of_isFinite hnum hden hden0, fsign_roundPack, i2d, fsign_roundPack, decide_eq_false hneg,
    fadeMaxF_eq]
  decide

/-- The gain of a band at 0 without loudness correction is +0.0, at every fade. -/
theorem bandGainDb_zero {e : Equalizer} (h : e.loudEn = false) (loud v20 v100 : F64) :
    bandGainDb e loud 0#64 v20 v100 = posZero := by
  have hgain : fadd (fdiv (i2d (0#64).toInt) hundred) posZero = posZero := by decide +kernel
  obtain ⟨hfin, hsign⟩ := fadeFraction_finite e.fade
  have hzero : isZero posZero = true := by decide
  rw [bandGainDb, h, if_neg Bool.false_ne_true, hgain]
  refine eq_of_toReal_eq_of_fsign ?_ ?_
  · rw [isZero_iff.1 (isZero_fmul_left hzero hfin), isZero_iff.1 hzero]
  · rw [fsign_fmul hasValue_posZero.1 hfin, hsign, Bool.bne_false]

theorem bandGains_zero (c : Config) {e : Equalizer} (hband : e.band = ⟨0#64, 0#64, 0#64, 0#64, 0#64, 0#64⟩)
    (hloud : e.loudEn = false) (loud : F64) :
    bandGains c e loud = ⟨posZero, posZero, posZero, posZero, posZero, posZero⟩ := by
  simp only [bandGains, hband, bandGainDb_zero hloud]

/-- Settles O55: a refresh by `refreshShelves_eq` and the gains written out; a flat one has all gains +0.0. -/
theorem flatEqualizerDesigns : Obligations.FlatEqualizerDesigns := by
  refine ⟨fun c interval rate e => ?_, fun c interval rate e hband hloud => ?_⟩
  · simp only [eqRefresh, refreshShelves_eq, bandGains, bandGainDb_eq, loudAdj_eq]
    rfl
  · have hstep : fsub posZero posZero = posZero := by decide +kernel
    simp only [eqRefresh, refreshShelves_eq, bandGains_zero c hband hloud, hstep]

end Sys2Proof.Machine
end

section
/-! A CONFIGURE whose checks pass (R221): its checks as numbers, and each effect's part written out. -/

namespace Sys2Proof.Machine

/-! ### The checks -/

/-- The rates of R86 and R221 as real numbers. -/
theorem legalRate_iff {rate : F64} : legalRate rate = true ↔ isFinite rate = true ∧ 0 < toReal rate := by
  rw [legalRate, ← isFinite_eq, Bool.and_eq_true]
  exact and_congr_right legalFreq_iff

theorem exec_configure_of_checks {ch encsel : BitVec 8} {opd : BitVec 64}
    (h : configureError cfg ch encsel ⟨opd⟩ = none) (s : State) :
    exec (.configure ch encsel opd) s = .next (reply (configureEffects cfg encsel ⟨opd⟩ s) statusOk 0#64 none) := by
  rw [exec_configure, configureWith, h, complete]

/-- The checks of R221 at the machine's `DLY_MAX` (log 8). -/
theorem configureError_eq_none {encsel : BitVec 8} {rate : F64} (hfin : isFinite rate = true) (hpos : 0 < toReal rate)
    (henc : encsel.toNat ≤ 2) (hcap : delayLength rate virtDelayA ≤ 65536) :
    configureError cfg 2#8 encsel rate = none :=
  configureError_none.2 ⟨rfl, legalRate_iff.2 ⟨hfin, hpos⟩, henc, decide_eq_false (not_lt.2 hcap)⟩

/-! ### The effects' parts -/

/-- The shelves of a refresh hang on the knobs, the fade and the loudness alone, not on the counters (R178). -/
theorem eqRefresh_sh_of_counters (c : Config) (n : BitVec 32) (rate : F64) (e : Equalizer) (interval next : BitVec 32)
    (pwr : Stereo (BitVec 64)) :
    (eqRefresh c n rate { e with interval := interval, next := next, pwr := pwr }).sh = (eqRefresh c n rate e).sh := rfl

/-- The equalizer's part of CONFIGURE leaves the knobs, the fade and the loudness, and clears the shelves of a refresh
made at once. -/
theorem configureEq_eq (c : Config) (rate : F64) (e : Equalizer) :
    configureEq c rate e =
      { e with
        interval := eqIntervalOf rate
        next := 0#32
        pwr := ⟨0#64, 0#64⟩
        sh := ⟨clearShelves (eqRefresh c 0#32 rate e).sh.l, clearShelves (eqRefresh c 0#32 rate e).sh.r⟩ } := by
  rw [configureEq, eqRefresh_sh_of_counters]
  rfl

theorem configureBass_eq (c : Config) (rate : F64) (b : BassBoost) :
    configureBass c rate b =
      { b with lp := designAndClear c .lowpass b.freq rate b.q posZero posZero b.lp } := rfl

/-- Settles O25: the checks by `configureError_eq_none`, each filter by `designAndClear_eq`, the shelves by
`configureEq_eq`. -/
theorem configureCarriedOut : Obligations.ConfigureCarriedOut := by
  intro encsel opd s rate samples delayA delayB hfin hpos henc hcap settled clear cleared weighting shelves
  rw [exec_configure_of_checks (configureError_eq_none hfin hpos henc hcap), configureEffects, configureComp,
    configureBass_eq, configureVirt, configureEq_eq]
  simp only [designAndClear_eq]
  rfl

/-! ### The worked examples -/

/-- The registers the examples of R121, R179 and R192 name, after a CONFIGURE that passes. -/
theorem exec_configure_numbers {ch encsel : BitVec 8} {opd : BitVec 64} {interval lenL lenR : BitVec 32}
    (h : configureError cfg ch encsel ⟨opd⟩ = none ∧ eqIntervalOf ⟨opd⟩ = interval ∧
      satU 32 (delayLength ⟨opd⟩ virtDelayA) = lenL ∧ satU 32 (delayLength ⟨opd⟩ virtDelayB) = lenR) (s : State) :
    ∃ t, exec (.configure ch encsel opd) s = .next t ∧ t.enc = encsel ∧ t.eq.interval = interval ∧
      t.virt.dly.l.len = lenL ∧ t.virt.dly.r.len = lenR ∧ t.eq.next = 0#32 := by
  obtain ⟨hchecks, hinterval, hlenL, hlenR⟩ := h
  exact ⟨_, exec_configure_of_checks hchecks s, rfl, hinterval, hlenL, hlenR, rfl⟩

/-- Settles O27: the numbers of each rate, evaluated. -/
theorem configureAtCommonRates : Obligations.ConfigureAtCommonRates := fun s =>
  ⟨exec_configure_numbers (by decide +kernel) s, exec_configure_numbers (by decide +kernel) s,
    exec_configure_numbers (by decide +kernel) s⟩

end Sys2Proof.Machine
end

section
/-! A delay line as the queue it is (R122, R124): the cells its calls visit in turn, one back each time, and the words
they hold in the order in which they come out. -/

namespace Sys2Proof.Machine

/-! ### The cells ahead of a line -/

/-- The cell that call `i` from now on reads and writes, the next call being 0: `i` back from the cursor, with wrap
(R122).  Going one back is going `LEN − 1` forward. -/
def dlCell (d : DelayLine) (i : Nat) : Nat := (d.cur.toNat + i * (d.len.toNat - 1)) % d.len.toNat

section
variable {d : DelayLine}

theorem dlCell_zero (h : d.cur.toNat < max d.len.toNat 1) : dlCell d 0 = d.cur.toNat := by
  rw [dlCell, Nat.zero_mul, Nat.add_zero]
  rcases Nat.eq_zero_or_pos d.len.toNat with h0 | hpos
  · rw [h0, Nat.mod_zero]
  · exact Nat.mod_eq_of_lt (by omega)

theorem dlCell_lt (h : 0 < d.len.toNat) (i : Nat) : dlCell d i < d.len.toNat := Nat.mod_lt _ h

/-- Within one turn the cell is the subtraction it stands for. -/
theorem dlCell_eq {i : Nat} (h : d.cur.toNat < d.len.toNat) (hi : i ≤ d.len.toNat) :
    dlCell d i = if i ≤ d.cur.toNat then d.cur.toNat - i else d.cur.toNat + d.len.toNat - i := by
  obtain ⟨m, hm⟩ : ∃ m, d.len.toNat = m + 1 := ⟨d.len.toNat - 1, by omega⟩
  rw [dlCell, hm, Nat.add_sub_cancel]
  rw [hm] at h hi
  split_ifs with hic
  · have hsum : d.cur.toNat + i * m = d.cur.toNat - i + i * (m + 1) := by rw [Nat.mul_succ]; omega
    rw [hsum, Nat.add_mul_mod_self_right, Nat.mod_eq_of_lt (by omega)]
  · obtain ⟨j, rfl⟩ : ∃ j, i = j + 1 := ⟨i - 1, by omega⟩
    have hsum : d.cur.toNat + (j + 1) * m = d.cur.toNat + (m + 1) - (j + 1) + j * (m + 1) := by
      rw [Nat.succ_mul, Nat.mul_succ]; omega
    rw [hsum, Nat.add_mul_mod_self_right, Nat.mod_eq_of_lt (by omega)]

/-- A call moves the cursor to the next cell; a line of length 0 has its cursor at 0 for good (R123). -/
theorem dlNext_cur_eq_dlCell (h : d.cur.toNat < max d.len.toNat 1) (x : F64) :
    (dlNext d x).cur.toNat = dlCell d 1 := by
  by_cases h0 : d.len = 0#32
  · rw [dlNext_of_len_zero h0, dlCell, h0]; simp
  · have hlen : d.len.toNat ≠ 0 := fun h1 => h0 (BitVec.eq_of_toNat_eq h1)
    rw [dlNext_cur h0, dlCell_eq (by omega) (by omega)]
    split_ifs <;> omega

/-- A call takes one cell off the row of cells ahead. -/
theorem dlCell_dlNext (h : d.cur.toNat < max d.len.toNat 1) (x : F64) (i : Nat) :
    dlCell (dlNext d x) i = dlCell d (i + 1) := by
  rw [dlCell, dlNext_cur_eq_dlCell h, dlNext_len, dlCell, Nat.mod_add_mod, dlCell]
  congr 1
  ring

/-- The cursor bound of R124 (i) is kept by every call, whatever the cells hold. -/
theorem dlNext_cur_lt (h : d.cur.toNat < max d.len.toNat 1) (x : F64) :
    (dlNext d x).cur.toNat < max (dlNext d x).len.toNat 1 := by
  rw [dlNext_len]
  rcases Nat.eq_zero_or_pos d.len.toNat with h0 | hpos
  · rwa [dlNext_of_len_zero (BitVec.eq_of_toNat_eq h0)]
  · rw [dlNext_cur_eq_dlCell h]
    exact (dlCell_lt hpos 1).trans_le (le_max_left _ _)

/-! ### The words waiting in a line -/

/-- The words a line holds, in the order in which its next `LEN` calls return them. -/
def dlQueue (d : DelayLine) : List F64 := (List.range d.len.toNat).map fun i => memRead d.buf (dlCell d i)

/-- A configure fills the queue with its zeros (R121). -/
theorem dlQueue_dlConfigure (rate seconds : F64) (d : DelayLine) :
    dlQueue (dlConfigure rate seconds d) = List.replicate (dlConfigure rate seconds d).len.toNat posZero := by
  simp [dlQueue, dlConfigure, cellDefault]

/-- The delay law of one call: the line takes its input at the back of the queue and returns what stands in front. For
a line of length 0 that is the input itself (R123). -/
theorem dlOut_cons_dlQueue (h : DelayOk d) (x : F64) : dlOut d x :: dlQueue (dlNext d x) = dlQueue d ++ [x] := by
  by_cases h0 : d.len = 0#32
  · simp [dlNext_of_len_zero h0, dlOut, dlQueue, h0]
  have hlen : d.len.toNat ≠ 0 := fun h1 => h0 (BitVec.eq_of_toNat_eq h1)
  have hcur : d.cur.toNat < d.len.toNat := by have := h.cursor; omega
  obtain ⟨m, hm⟩ : ∃ m, d.len.toNat = m + 1 := ⟨d.len.toNat - 1, by omega⟩
  have hfront : dlOut d x = memRead d.buf (dlCell d 0) := by rw [dlOut, if_neg h0, dlCell_zero h.cursor]
  have hkept : ∀ i < m, memRead (dlNext d x).buf (dlCell (dlNext d x) i) = memRead d.buf (dlCell d (i + 1)) := by
    intro i hi
    rw [dlNext_buf h0, memRead_memWrite h.canonical, dlCell_dlNext h.cursor, if_neg]
    rw [dlCell_eq hcur (by omega)]
    split_ifs <;> omega
  have hback : memRead (dlNext d x).buf (dlCell (dlNext d x) m) = x := by
    rw [dlNext_buf h0, memRead_memWrite h.canonical, dlCell_dlNext h.cursor, if_pos]
    rw [dlCell_eq hcur (by omega)]
    split_ifs <;> omega
  calc dlOut d x :: dlQueue (dlNext d x)
      = memRead d.buf (dlCell d 0) :: ((List.range m).map (fun i => memRead d.buf (dlCell d (i + 1))) ++ [x]) := by
        rw [hfront, dlQueue, dlNext_len, hm, List.range_succ, List.map_append, List.map_singleton, hback]
        congr 2
        exact List.map_congr_left fun i hi => hkept i (List.mem_range.1 hi)
    _ = dlQueue d ++ [x] := by
        rw [dlQueue, hm, List.range_succ_eq_map, List.map_cons, List.map_map]
        rfl

end

/-! ### A run of calls -/

/-- The line after the calls with the given inputs. -/
def dlFeed (d : DelayLine) (xs : List F64) : DelayLine := xs.foldl (fun l y => (dlProcess l y).1) d

@[simp] theorem dlFeed_nil (d : DelayLine) : dlFeed d [] = d := rfl

@[simp] theorem dlFeed_cons (d : DelayLine) (x : F64) (xs : List F64) :
    dlFeed d (x :: xs) = dlFeed (dlNext d x) xs := rfl

@[simp] theorem dlFeed_len (d : DelayLine) (xs : List F64) : (dlFeed d xs).len = d.len := by
  induction xs generalizing d with
  | nil => rfl
  | cons x xs ih => rw [dlFeed_cons, ih, dlNext_len]

/-- Call `k` returns word `k` of the queue at the start with the inputs behind it. -/
theorem dlOut_dlFeed {d : DelayLine} (h : DelayOk d) (xs : List F64) (x : F64) :
    (dlQueue d ++ (xs ++ [x]))[xs.length]? = some (dlOut (dlFeed d xs) x) := by
  induction xs generalizing d with
  | nil => rw [List.nil_append, ← dlOut_cons_dlQueue h, dlFeed_nil]; rfl
  | cons y ys ih =>
    rw [List.cons_append, List.append_cons, ← dlOut_cons_dlQueue h, List.cons_append]
    exact ih (dlNext_ok h y)

/-- The delay law (R124 (ii)): a line just configured returns its `LEN` zeros, then the inputs. -/
theorem dlOut_dlFeed_dlConfigure (rate seconds : F64) (d : DelayLine) (xs : List F64) (x : F64) :
    dlOut (dlFeed (dlConfigure rate seconds d) xs) x =
      if xs.length < (dlConfigure rate seconds d).len.toNat then posZero
      else ((xs ++ [x])[xs.length - (dlConfigure rate seconds d).len.toNat]?).getD posZero := by
  have hout := dlOut_dlFeed (dlConfigure_ok rate seconds d) xs x
  rw [dlQueue_dlConfigure, List.getElem?_append, List.length_replicate] at hout
  split_ifs at hout ⊢ with hk
  · rw [List.getElem?_replicate_of_lt hk, Option.some.injEq] at hout
    exact hout.symm
  · rw [hout, Option.getD_some]

/-- Settles O43: the bound is `dlNext_cur_lt`, the law `dlOut_dlFeed_dlConfigure`, an impulse one of its inputs. -/
theorem delayLaw : Obligations.DelayLaw := by
  refine ⟨⟨dlReset_ok.cursor, fun rate seconds d => (dlConfigure_ok rate seconds d).cursor,
      fun _ x h => dlNext_cur_lt h x⟩,
    fun rate seconds d xs x => ?_, fun rate seconds d k => ?_⟩
  · have hlen := dlFeed_len (dlConfigure rate seconds d) xs
    refine ⟨hlen, (dlOut_dlFeed_dlConfigure rate seconds d xs x).trans ?_⟩
    rw [← hlen]
    rfl
  · intro input start line
    have hline : line = dlFeed start ((List.range k).map input) := by rw [dlFeed, List.foldl_map]
    have hinputs : (List.range k).map input ++ [input k] = (List.range (k + 1)).map input := by
      rw [List.range_succ, List.map_append, List.map_singleton]
    change dlOut line (input k) = _
    have hstart : start = dlConfigure rate seconds d := rfl
    rw [hline, hstart, dlOut_dlFeed_dlConfigure, hinputs, List.length_map, List.length_range]
    split_ifs with hlt heq heq
    · omega
    · rfl
    · simp [heq, input]
    · simp [input]
      omega

/-! ### A PROCESS through the virtualizer -/

/-- The line `e` is `d` after `m` calls, whatever their inputs: `m` cells on, with every cell the calls did not visit as
it was. -/
structure DelayAdvanced (d : DelayLine) (m : Nat) (e : DelayLine) : Prop where
  ok : DelayOk e
  len : e.len = d.len
  cells : ∀ i, dlCell e i = dlCell d (m + i)
  frame : ∀ k, (∀ i, i < m → k ≠ dlCell d i) → memRead e.buf k = memRead d.buf k

section
variable {d e : DelayLine} {m : Nat}

theorem DelayAdvanced.refl (h : DelayOk d) : DelayAdvanced d 0 d :=
  ⟨h, rfl, fun i => by rw [Nat.zero_add], fun _ _ => rfl⟩

theorem DelayAdvanced.cursor (h : DelayAdvanced d m e) : e.cur.toNat = dlCell d m := by
  rw [← dlCell_zero h.ok.cursor, h.cells, Nat.add_zero]

/-- One more call writes the next cell and no other. -/
theorem DelayAdvanced.next (h : DelayAdvanced d m e) (x : F64) : DelayAdvanced d (m + 1) (dlNext e x) where
  ok := dlNext_ok h.ok x
  len := (dlNext_len e x).trans h.len
  cells i := by rw [dlCell_dlNext h.ok.cursor, h.cells, Nat.add_assoc, Nat.add_comm 1]
  frame k hk := by
    have hbefore := h.frame k fun i hi => hk i (by omega)
    by_cases h0 : e.len = 0#32
    · rwa [dlNext_of_len_zero h0]
    · rw [dlNext_buf h0, memRead_memWrite h.ok.canonical, h.cursor, if_neg (hk m (by omega)), hbefore]

end

/-- With the virtualizer running, `n` frames are `n` calls of each delay line. -/
theorem runFrames_delayAdvanced (c : Config) {g : Gates} (hg : g.virt = true) (adj : Stereo Int) {s : State}
    (h : VirtualizerOk s.virt) {n : Nat} {words : List F64} (hw : words.length = 2 * n) :
    DelayAdvanced s.virt.dly.l n (runFrames c g adj s words).1.virt.dly.l ∧
      DelayAdvanced s.virt.dly.r n (runFrames c g adj s words).1.virt.dly.r := by
  have hcount := runFrames_counts (c := c) (g := g) (adj := adj) (k := 0)
    (fun m t => DelayAdvanced s.virt.dly.l m t.virt.dly.l ∧ DelayAdvanced s.virt.dly.r m t.virt.dly.r)
    (fun m t l r ⟨hl, hr⟩ => by
      obtain ⟨_, _, v0, v1, _, _, hframe⟩ := chainFrame_state c g adj t l r
      rw [hframe, hg]
      exact ⟨hl.next _, hr.next _⟩)
    ⟨.refl h.dlyL, .refl h.dlyR⟩ hw
  rwa [Nat.zero_add] at hcount

theorem runBlock_delayAdvanced (c : Config) {n : Nat} {s : State} (h : VirtualizerOk s.virt) (hen : s.virt.en = true)
    (hlen : s.sin.length = 2 * n) :
    DelayAdvanced s.virt.dly.l n (runBlock c n s).1.virt.dly.l ∧
      DelayAdvanced s.virt.dly.r n (runBlock c n s).1.virt.dly.r := by
  have hvirt : (blockStep c (gatesOf s) n s).1.virt = s.virt := by rw [blockStep_state]
  have hframes := runFrames_delayAdvanced c (g := gatesOf s) hen (blockStep c (gatesOf s) n s).2
    (s := (blockStep c (gatesOf s) n s).1) (by rwa [hvirt]) hlen
  rwa [hvirt] at hframes

/-- Settles O45: the block is carried out, so each line has advanced by `n` calls. -/
theorem processDelayFrame : Obligations.ProcessDelayFrame := by
  intro n s t r hok hexec hr hstatus hen
  rcases processWith_next hexec with ⟨-, rfl⟩ | ⟨-, -, rfl⟩ | ⟨-, -, hfault, rfl⟩
  · cases hr
    exact absurd hstatus (by decide)
  · cases hr
    exact absurd hstatus (by decide)
  · obtain ⟨hl, hright⟩ := runBlock_delayAdvanced cfg hok.virt hen (processFault_none.1 hfault).1
    exact ⟨⟨hl.len, hl.cursor, hl.frame⟩, ⟨hright.len, hright.cursor, hright.frame⟩⟩

end Sys2Proof.Machine
end

section
/-! FIR16 (R132, R133): its sum written out, its history as the last sixteen inputs, and its answer to an
impulse. -/

namespace Sys2Proof.Machine

/-! ### One call -/

/-- The word at place `k` of the sixteen, and +0.0 past them. -/
def tap (v : Vector F64 16) (k : Nat) : F64 := (v.toList[k]?).getD posZero

theorem tap_of_getElem? {v : Vector F64 16} {k : Nat} {a : F64} (h : v.toList[k]? = some a) : tap v k = a := by
  rw [tap, h, Option.getD_some]

theorem getElem?_eq_tap (v : Vector F64 16) {k : Nat} (hk : k < 16) : v.toList[k]? = some (tap v k) := by
  rw [tap, List.getElem?_eq_getElem (by simpa using hk), Option.getD_some]

theorem tap_of_le (v : Vector F64 16) {k : Nat} (hk : 16 ≤ k) : tap v k = posZero := by
  rw [tap, List.getElem?_eq_none (by simpa using hk), Option.getD_none]

theorem isFinite_tap {v : Vector F64 16} (h : ∀ a ∈ v.toList, isFinite a = true) (k : Nat) :
    isFinite (tap v k) = true := by
  rcases Nat.lt_or_ge k 16 with hk | hk
  · exact h _ (List.mem_of_getElem? (getElem?_eq_tap v hk))
  · rw [tap_of_le v hk]
    exact hasValue_posZero.1

/-- The shift register: the newest word in front, the oldest out. -/
theorem toList_firShift (h : Vector F64 16) (x : F64) : (firShift h x).toList = (x :: h.toList).take 16 := by
  refine List.ext_getElem (by simp) fun k hk _ => ?_
  rw [List.getElem_take]
  have hk : k < 16 := by simpa using hk
  interval_cases k <;> rfl

theorem tap_firShift (h : Vector F64 16) (x : F64) {k : Nat} (hk : k < 16) :
    tap (firShift h x) k = if k = 0 then x else tap h (k - 1) := by
  rw [tap, toList_firShift, List.getElem?_take_of_lt hk]
  cases k with
  | zero => rfl
  | succ k => rfl

/-- The products, place by place. -/
theorem zipWith_fmul_eq_map_tap (c h : Vector F64 16) :
    List.zipWith fmul c.toList h.toList = (List.range 16).map fun k => fmul (tap c k) (tap h k) := by
  refine List.ext_getElem (by simp) fun k hk _ => ?_
  have hk : k < 16 := by simpa using hk
  have htap (v : Vector F64 16) : tap v k = v.toList[k]'(by simpa using hk) :=
    tap_of_getElem? (List.getElem?_eq_getElem _)
  rw [List.getElem_zipWith, List.getElem_map, List.getElem_range, htap, htap]

/-- The sum of R132, place by place. -/
theorem firSum_eq_foldl (c h : Vector F64 16) :
    firSum c h = (List.range 15).foldl (fun acc k => fadd acc (fmul (tap c (k + 1)) (tap h (k + 1))))
      (fmul (tap c 0) (tap h 0)) := by
  rw [firSum, zipWith_fmul_eq_map_tap, List.range_succ_eq_map, List.map_cons, List.map_map]
  exact List.foldl_map

/-- R132: the answer, from the history before the call and its input. -/
theorem firProcess_out (u : Fir16) (x : F64) :
    (firProcess u x).2 =
      (List.range 15).foldl
        (fun acc k => fadd acc (fmul (tap u.c (k + 1)) (if k + 1 = 0 then x else tap u.h (k + 1 - 1))))
        (fmul (tap u.c 0) x) := by
  change firSum u.c (firShift u.h x) = _
  rw [firSum_eq_foldl, tap_firShift u.h x (by decide), if_pos rfl]
  refine List.foldl_ext _ _ _ fun acc k hk => ?_
  rw [tap_firShift u.h x (Nat.succ_lt_succ (List.mem_range.1 hk))]

/-! ### A run of calls -/

/-- The unit after a call on each of the inputs, the first in front. -/
def firCalls (u : Fir16) (xs : List F64) : Fir16 := xs.foldl (fun k y => (firProcess k y).1) u

theorem firCalls_cons (u : Fir16) (x : F64) (xs : List F64) :
    firCalls u (x :: xs) = firCalls (firProcess u x).1 xs := rfl

theorem firCalls_c (u : Fir16) (xs : List F64) : (firCalls u xs).c = u.c := by
  induction xs generalizing u with
  | nil => rfl
  | cons x xs ih => exact ih (firProcess u x).1

/-- The history is the last sixteen inputs, the newest in front, with the old history behind them. -/
theorem toList_firCalls_h (u : Fir16) (xs : List F64) :
    (firCalls u xs).h.toList = (xs.reverse ++ u.h.toList).take 16 := by
  induction xs generalizing u with
  | nil => exact (List.take_of_length_le (by simp)).symm
  | cons x xs ih =>
    have hshift : (firProcess u x).1.h.toList = (x :: u.h.toList).take 16 := toList_firShift u.h x
    rw [firCalls_cons, ih, hshift, List.reverse_cons, List.append_assoc, List.singleton_append, List.take_append,
      List.take_append, List.take_take, Nat.min_eq_left (Nat.sub_le ..)]

/-- The answer after a run of calls is the sum over the history with the last input in it. -/
theorem firProcess_firCalls (u : Fir16) (xs : List F64) (x : F64) :
    (firProcess (firCalls u xs) x).2 = firSum u.c (firCalls u (xs ++ [x])).h := by
  have hlast : firCalls u (xs ++ [x]) = (firProcess (firCalls u xs) x).1 := List.foldl_append
  rw [hlast, ← firCalls_c u xs]
  rfl

/-- R133 (ii): sixteen inputs push the whole old history out. -/
theorem firCalls_h_eq (u v : Fir16) {xs : List F64} (hlen : 16 ≤ xs.length) :
    (firCalls u xs).h = (firCalls v xs).h := by
  have hrev : 16 ≤ xs.reverse.length := by rwa [List.length_reverse]
  rw [← Vector.toList_inj, toList_firCalls_h, toList_firCalls_h, List.take_append_of_le_length hrev,
    List.take_append_of_le_length hrev]

/-! ### The impulse response -/

/-- 1.0 first and then zeros (R133 (i)). -/
def impulse (i : Nat) : F64 := if i = 0 then fone else posZero

theorem map_impulse_range (j : Nat) : (List.range (j + 1)).map impulse = fone :: List.replicate j posZero := by
  rw [List.range_succ_eq_map, List.map_cons, List.map_map]
  refine congrArg (fone :: ·) (List.eq_replicate_iff.2 ⟨by simp, fun b hb => ?_⟩)
  obtain ⟨i, -, rfl⟩ := List.mem_map.1 hb
  rfl

/-- After the impulse and `j` zeros, 1.0 stands at place `j` and zeros stand elsewhere. -/
theorem tap_firCalls_impulse {u : Fir16} (hu : u.h = Vector.replicate 16 posZero) (j : Nat) {k : Nat} (hk : k < 16) :
    tap (firCalls u ((List.range (j + 1)).map impulse)).h k = if k = j then fone else posZero := by
  have hback : (fone :: List.replicate j posZero).reverse ++ u.h.toList =
      List.replicate j posZero ++ fone :: List.replicate 16 posZero := by
    rw [hu, List.reverse_cons, List.reverse_replicate, List.append_assoc, List.singleton_append,
      Vector.toList_replicate]
  apply tap_of_getElem?
  rw [toList_firCalls_h, List.getElem?_take_of_lt hk, map_impulse_range, hback]
  rcases Nat.lt_trichotomy k j with h | rfl | h
  · rw [List.getElem?_append_left (by simpa using h), List.getElem?_replicate_of_lt h, if_neg h.ne]
  · rw [List.getElem?_append_right (by simp), List.length_replicate, Nat.sub_self, if_pos rfl]
    rfl
  · obtain ⟨i, rfl⟩ := Nat.exists_eq_add_of_lt h
    rw [List.getElem?_append_right (by rw [List.length_replicate]; omega), List.length_replicate,
      Nat.add_assoc, Nat.add_sub_cancel_left, List.getElem?_cons_succ, List.getElem?_replicate_of_lt (by omega), if_neg (by omega)]

/-- A sum whose terms are zeros but for the one at place `j` has that term's value from place `j` on. -/
theorem hasValue_foldl_fadd_of_single {f : Nat → F64} {z : F64} {v : ℝ} {j n : Nat} (hz : HasValue z v)
    (hf : ∀ k ≤ n, HasValue (f k) (if k = j then v else 0)) :
    HasValue ((List.range n).foldl (fun acc k => fadd acc (f (k + 1))) (f 0)) (if j ≤ n then v else 0) := by
  induction n with
  | zero => simpa [eq_comm] using hf 0 le_rfl
  | succ n ih =>
    have hacc := ih fun k hk => hf k (Nat.le_succ_of_le hk)
    have hterm := hf (n + 1) le_rfl
    rw [List.range_succ, List.foldl_append]
    rcases Nat.lt_trichotomy j (n + 1) with h | rfl | h
    · rw [if_pos (Nat.le_of_lt_succ h)] at hacc
      rw [if_neg h.ne'] at hterm
      rw [if_pos h.le]
      exact hacc.add_isZero (hasValue_zero_iff.1 hterm)
    · rw [if_neg (Nat.not_succ_le_self n)] at hacc
      rw [if_pos rfl] at hterm
      rw [if_pos le_rfl]
      exact hacc.add hterm hz (zero_add v)
    · rw [if_neg (by omega)] at hacc ⊢
      rw [if_neg h.ne] at hterm
      exact hacc.add_isZero (hasValue_zero_iff.1 hterm)

/-- R133 (i): the answer `j` calls after the impulse has the value of coefficient `j`, and of zero past the last. -/
theorem hasValue_impulse_response {u : Fir16} (hu : u.h = Vector.replicate 16 posZero)
    (hc : ∀ a ∈ u.c.toList, isFinite a = true) (j : Nat) :
    HasValue (firProcess (firCalls u ((List.range j).map impulse)) (impulse j)).2 (toReal (tap u.c j)) := by
  have hcoeff := hasValue_toReal (isFinite_tap hc j)
  have hterm : ∀ k ≤ 15, HasValue
      (fmul (tap u.c k) (tap (firCalls u ((List.range (j + 1)).map impulse)).h k))
      (if k = j then toReal (tap u.c j) else 0) := by
    intro k hk
    rw [tap_firCalls_impulse hu j (Nat.lt_succ_of_le hk)]
    split_ifs with hkj
    · rw [fmul_fone (isFinite_tap hc k), hkj]
      exact hcoeff
    · exact hasValue_zero_iff.2 (isZero_fmul_right (isFinite_tap hc k) (by decide))
  have hsum := hasValue_foldl_fadd_of_single hcoeff hterm
  have hinputs : (List.range j).map impulse ++ [impulse j] = (List.range (j + 1)).map impulse := by
    rw [List.range_succ, List.map_append, List.map_singleton]
  rw [firProcess_firCalls, hinputs, firSum_eq_foldl]
  split_ifs at hsum with hj
  · exact hsum
  · rwa [tap_of_le u.c (Nat.lt_of_not_le hj), hasValue_posZero.2]

/-- Settles O46: the sum place by place, the value of the impulse response, and the history of sixteen inputs. -/
theorem firForgetsAfterSixteen : Obligations.FirForgetsAfterSixteen := by
  refine ⟨fun u x => ⟨firProcess_out u x, rfl, fun k hk => ?_⟩, fun u j hu hc => ?_,
    fun u v xs x hcoeff hlen => ?_⟩
  · exact (getElem?_eq_tap (firShift u.h x) hk).trans (congrArg some (tap_firShift u.h x hk))
  · have hy := hasValue_impulse_response hu hc j
    rw [firCalls, List.foldl_map] at hy
    refine ⟨fun a ha => ?_, fun hj => ?_⟩
    · rw [tap_of_getElem? ha] at hy
      exact ⟨fun h => eq_of_toReal_eq h hy.2, fun h => isZero_iff.2 (hy.2.trans (isZero_iff.1 h))⟩
    · rw [tap_of_le u.c hj, hasValue_posZero.2] at hy
      exact hasValue_zero_iff.1 hy
  · have hall : 16 ≤ (xs ++ [x]).length := by simpa using hlen
    calc (firProcess (firCalls u xs) x).2
        = firSum u.c (firCalls u (xs ++ [x])).h := firProcess_firCalls u xs x
      _ = firSum v.c (firCalls v (xs ++ [x])).h := by rw [hcoeff, firCalls_h_eq u v hall]
      _ = (firProcess (firCalls v xs) x).2 := (firProcess_firCalls v xs x).symm

end Sys2Proof.Machine
end

section
/-! PROCESS and the stages (R205, R206): a frame as its four gated stages in order, the registers no PROCESS writes, and
the stages that do not run. -/

namespace Sys2Proof.Machine

/-! ### A block of one frame -/

section
variable (c : Config) (g : Gates) (s : State) (l r : F64)

theorem bassStage_eq :
    bassStage g s l r =
      (let p := if g.bass then bassFrame s.bass l r else (s.bass, l, r)
       ({ s with bass := p.1 }, p.2)) := by
  unfold bassStage; split <;> rfl

theorem virtStage_eq :
    virtStage c g s l r =
      (let p := if g.virt then virtFrame c s.virt l r else (s.virt, l, r)
       ({ s with virt := p.1 }, p.2)) := by
  unfold virtStage; split <;> rfl

theorem eqStage_eq :
    eqStage c g s l r =
      (let p := if g.eq then eqFrame c s.rate s.eq l r else (s.eq, l, r)
       ({ s with eq := p.1 }, p.2)) := by
  unfold eqStage; split <;> rfl

end

theorem blockStep_of_runs (c : Config) {g : Gates} (h : g.comp = true) (n : Nat) (s : State) :
    blockStep c g n s =
      ({ s with comp := (compBlock c s.rate n s.sin s.comp).1 }, (compBlock c s.rate n s.sin s.comp).2) := by
  rw [blockStep, if_pos h]

theorem blockStep_of_not_runs (c : Config) {g : Gates} (h : g.comp = false) (n : Nat) (s : State) :
    blockStep c g n s = (s, ⟨0, 0⟩) := by
  rw [blockStep, h, if_neg Bool.false_ne_true]

/-- The compressor's share of a block's first frame (R141, R206): its block step, then its stage. -/
theorem compStage_blockStep {c : Config} {n : Nat} {s : State} {l r : F64} {k : Compressor × F64 × F64}
    (hk : (if compRuns s.comp then
      compFrame (compBlock c s.rate n s.sin s.comp).2 (compBlock c s.rate n s.sin s.comp).1 l r
      else (s.comp, l, r)) = k) :
    compStage (gatesOf s) (blockStep c (gatesOf s) n s).2 (blockStep c (gatesOf s) n s).1 l r =
      ({ s with comp := k.1 }, k.2) := by
  subst hk
  cases hrun : compRuns s.comp with
  | true =>
    rw [blockStep_of_runs c (g := gatesOf s) hrun, compStage, if_pos (show (gatesOf s).comp = true from hrun)]
    rfl
  | false =>
    rw [blockStep_of_not_runs c (g := gatesOf s) hrun, compStage, show (gatesOf s).comp = false from hrun]
    rfl

/-- A block of one frame in the order of R206: `k`, `b`, `v` and `e` are what each stage leaves of its effect and hands
to the next one. -/
theorem runBlock_of_one_frame {c : Config} {n : Nat} {s : State} {l r : F64} (h : s.sin = [l, r])
    {k : Compressor × F64 × F64} {b : BassBoost × F64 × F64} {v : Virtualizer × F64 × F64} {e : Equalizer × F64 × F64}
    (hk : (if compRuns s.comp then
      compFrame (compBlock c s.rate n s.sin s.comp).2 (compBlock c s.rate n s.sin s.comp).1 l r
      else (s.comp, l, r)) = k)
    (hb : (if s.bass.en then bassFrame s.bass k.2.1 k.2.2 else (s.bass, k.2.1, k.2.2)) = b)
    (hv : (if s.virt.en then virtFrame c s.virt b.2.1 b.2.2 else (s.virt, b.2.1, b.2.2)) = v)
    (he : (if s.eq.en then eqFrame c s.rate s.eq v.2.1 v.2.2 else (s.eq, v.2.1, v.2.2)) = e) :
    runBlock c n s = ({ s with comp := k.1, bass := b.1, virt := v.1, eq := e.1 }, [e.2.1, e.2.2]) := by
  rw [runBlock, h, runFrames_cons, runFrames_nil, chainFrame, compStage_blockStep hk]
  simp only [bassStage_eq, virtStage_eq, eqStage_eq, gatesOf, hb, hv, he, h]

/-- Settles O33: nothing stops the block, and its one frame is `runBlock_of_one_frame`. -/
theorem processOneFrame : Obligations.ProcessOneFrame := by
  intro s l r hc hsin hvirt heq
  have hfault : processFault (1#64).toNat s = none := by
    refine processFault_none.2 ⟨by rw [hsin]; rfl, fun hv _ => hvirt hv, fun he h0 => ?_⟩
    have hinterval := heq he
    rw [h0] at hinterval
    exact absurd hinterval (by decide)
  refine ⟨activeResult (runBlock cfg (1#64).toNat s).1, ?_⟩
  rw [exec_process_of_no_fault hc hfault, runBlock_of_one_frame hsin (by rw [hsin]) rfl rfl rfl]
  rfl

/-! ### The registers no PROCESS writes -/

/-- The compressor's registers that no block writes: its knobs and the user gains. -/
def Compressor.settings (k : Compressor) : Bool × F64 × Stereo (BitVec 64) := (k.en, k.ratio, k.user)

/-- The bass boost's registers that no block writes: its knobs and what hangs on them. -/
def BassBoost.settings (b : BassBoost) : Bool × BitVec 64 × F64 × F64 := (b.en, b.strength, b.freq, b.q)

/-- The equalizer's registers that no block writes: its knobs and the refresh interval. -/
def Equalizer.settings (e : Equalizer) : Bool × Bands × Bool × F64 × BitVec 32 :=
  (e.en, e.band, e.loudEn, e.loudRef, e.interval)

/-- The virtualizer's registers that no block writes: its knobs and what hangs on them. -/
def Virtualizer.settings (v : Virtualizer) : Bool × BitVec 64 × Bool × Bool × BitVec 64 :=
  (v.en, v.strength, v.deep, v.wide, v.level)

theorem Compressor.eq_of_settings {k m : Compressor} (h : m.settings = k.settings) :
    m = { k with fade := m.fade, cur := m.cur, bp := m.bp } := by
  cases k; cases m; cases h; rfl

theorem BassBoost.eq_of_settings {b d : BassBoost} (h : d.settings = b.settings) : d = { b with lp := d.lp } := by
  cases b; cases d; cases h; rfl

theorem Equalizer.eq_of_settings {e f : Equalizer} (h : f.settings = e.settings) :
    f = { e with fade := f.fade, next := f.next, loud := f.loud, pwr := f.pwr, sh := f.sh } := by
  cases e; cases f; cases h; rfl

theorem Virtualizer.eq_of_settings {v w : Virtualizer} (h : w.settings = v.settings) :
    w = { v with last := w.last, dly := w.dly, loc := w.loc } := by
  cases v; cases w; cases h; rfl

theorem eqFrame_settings (c : Config) (rate : F64) (e : Equalizer) (l r : F64) :
    (eqFrame c rate e l r).1.settings = e.settings := by
  have hdue : (eqDue c rate e).settings = e.settings := by unfold eqDue; split <;> rfl
  exact hdue

/-- The four effects keep their settings. -/
structure SameSettings (s t : State) : Prop where
  comp : t.comp.settings = s.comp.settings
  bass : t.bass.settings = s.bass.settings
  eq : t.eq.settings = s.eq.settings
  virt : t.virt.settings = s.virt.settings

theorem SameSettings.refl (s : State) : SameSettings s s := ⟨rfl, rfl, rfl, rfl⟩

theorem runBlock_settings (c : Config) (n : Nat) (s : State) : SameSettings s (runBlock c n s).1 :=
  runBlock_keeps (SameSettings s) (fun _ _ h => ⟨h.comp, h.bass, h.eq, h.virt⟩)
    (fun _ _ h => ⟨h.comp, h.bass, h.eq, h.virt⟩) (fun _ _ _ h => ⟨h.comp, h.bass, h.eq, h.virt⟩)
    (fun _ _ _ h => ⟨h.comp, h.bass, h.eq, h.virt⟩)
    (fun t l r h => ⟨h.comp, h.bass, (eqFrame_settings c t.rate t.eq l r).trans h.eq, h.virt⟩) n (.refl s)

theorem runBlock_globals (c : Config) (n : Nat) (s : State) : SameGlobals s (runBlock c n s).1 :=
  runBlock_keeps (SameGlobals s) (fun _ _ h => { h with }) (fun _ _ h => { h with }) (fun _ _ _ h => { h with })
    (fun _ _ _ h => { h with }) (fun _ _ _ h => { h with }) n (.refl s)

/-! ### The stages that do not run -/

/-- A stage whose gate is off is as it was (R141, R164, R182, R196). -/
structure OffStagesKept (g : Gates) (s t : State) : Prop where
  comp : g.comp = false → t.comp = s.comp
  bass : g.bass = false → t.bass = s.bass
  virt : g.virt = false → t.virt = s.virt
  eq : g.eq = false → t.eq = s.eq

theorem OffStagesKept.refl (g : Gates) (s : State) : OffStagesKept g s s :=
  ⟨fun _ => rfl, fun _ => rfl, fun _ => rfl, fun _ => rfl⟩

section
variable {c : Config} {g : Gates} {adj : Stereo Int} {s t : State}

theorem OffStagesKept.frame (h : OffStagesKept g s t) (l r : F64) :
    OffStagesKept g s (chainFrame c g adj t l r).1 := by
  obtain ⟨_, _, _, _, _, _, hframe⟩ := chainFrame_state c g adj t l r
  rw [hframe]
  exact ⟨fun hg => (if_neg (ne_true_of_eq_false hg)).trans (h.comp hg),
    fun hg => (if_neg (ne_true_of_eq_false hg)).trans (h.bass hg),
    fun hg => (if_neg (ne_true_of_eq_false hg)).trans (h.virt hg),
    fun hg => (if_neg (ne_true_of_eq_false hg)).trans (h.eq hg)⟩

theorem OffStagesKept.blockStep (n : Nat) : OffStagesKept g s (blockStep c g n s).1 := by
  cases hg : g.comp with
  | true =>
    rw [blockStep_of_runs c hg]
    exact ⟨fun hoff => absurd hg (ne_true_of_eq_false hoff), fun _ => rfl, fun _ => rfl, fun _ => rfl⟩
  | false =>
    rw [blockStep_of_not_runs c hg]
    exact .refl g s

end

theorem runBlock_offStagesKept (c : Config) (n : Nat) (s : State) :
    OffStagesKept (gatesOf s) s (runBlock c n s).1 :=
  runFrames_keeps (OffStagesKept (gatesOf s) s) (fun _ l r h => h.frame l r) (.blockStep n) s.sin

/-! ### PROCESS -/

/-- All PROCESS can do: answer with registers that keep the globals, every effect's settings and the stages that are
off. -/
theorem exec_process_next {n : BitVec 64} {s t : State} (h : exec (.process n) s = .next t) :
    ∃ u, SameGlobals s u ∧ SameSettings s u ∧ OffStagesKept (gatesOf s) s u ∧
      ∃ status res sout, t = reply u status res sout := by
  rcases processWith_next h with ⟨-, rfl⟩ | ⟨-, -, rfl⟩ | ⟨-, -, -, rfl⟩
  · exact ⟨s, .refl s, .refl s, .refl _ s, _, _, _, rfl⟩
  · exact ⟨s, .refl s, .refl s, .refl _ s, _, _, _, rfl⟩
  · exact ⟨_, runBlock_globals cfg _ s, runBlock_settings cfg _ s, runBlock_offStagesKept cfg _ s, _, _, _, rfl⟩

theorem compRuns_eq_false {k : Compressor} : compRuns k = false ↔ k.en = false ∧ k.fade = 0#8 := by
  simp [compRuns]

/-- Settles O35, from the settings that no stage writes and the stages that are off. -/
theorem processWritesOnlyRunningStages : Obligations.ProcessWritesOnlyRunningStages := by
  intro n s t h
  obtain ⟨u, hglob, hset, hoff, _, _, _, rfl⟩ := exec_process_next h
  exact ⟨hglob.configured, hglob.rate, hglob.enc, hglob.masterEn, hglob.fir, hglob.inbox,
    Compressor.eq_of_settings hset.comp, BassBoost.eq_of_settings hset.bass, Equalizer.eq_of_settings hset.eq,
    Virtualizer.eq_of_settings hset.virt, fun hen hfade => hoff.comp (compRuns_eq_false.2 ⟨hen, hfade⟩),
    hoff.bass, hoff.virt, hoff.eq⟩

end Sys2Proof.Machine
end

section
/-! The compressor's fade (R143) over a PROCESS, and the reach of the gain increment (R149, R150, R154 (i)). -/

namespace Sys2Proof.Machine

/-! ### The fade -/

theorem fadeStep_toNat (en : Bool) (fade : BitVec 8) :
    (fadeStep en fade).toNat =
      if en then (if fade.toNat < 100 then fade.toNat + 1 else fade.toNat) else fade.toNat - 1 := by
  unfold fadeStep
  rw [fadeMax_eq]
  split_ifs <;> bv_omega

/-- No frame moves the fade. -/
theorem chainFrame_comp_fade (c : Config) (g : Gates) (adj : Stereo Int) (s : State) (l r : F64) :
    (chainFrame c g adj s l r).1.comp.fade = s.comp.fade := by
  obtain ⟨_, _, _, _, _, _, hframe⟩ := chainFrame_state c g adj s l r
  rw [hframe]
  cases g.comp <;> rfl

/-- The block step moves the fade by one step; a compressor that does not run has it at its end. -/
theorem blockStep_comp_fade (c : Config) (n : Nat) (s : State) :
    (blockStep c (gatesOf s) n s).1.comp.fade = fadeStep s.comp.en s.comp.fade := by
  cases hrun : compRuns s.comp with
  | true => rw [blockStep_of_runs c (g := gatesOf s) hrun]; rfl
  | false =>
    obtain ⟨hen, hfade⟩ := compRuns_eq_false.1 hrun
    rw [blockStep_of_not_runs c (g := gatesOf s) hrun, hen, hfade]
    rfl

theorem runBlock_comp_fade (c : Config) (n : Nat) (s : State) :
    (runBlock c n s).1.comp.fade = fadeStep s.comp.en s.comp.fade :=
  runFrames_keeps (fun t => t.comp.fade = fadeStep s.comp.en s.comp.fade)
    (fun t l r h => (chainFrame_comp_fade c _ _ t l r).trans h) (blockStep_comp_fade c n s) s.sin

/-- Settles O48: the fade after the block is one step of it, whatever the number of frames. -/
theorem compressorFadeStep : Obligations.CompressorFadeStep := by
  intro n s t r hexec hr hstatus
  rcases processWith_next hexec with ⟨-, rfl⟩ | ⟨-, -, rfl⟩ | ⟨-, -, -, rfl⟩
  · cases hr
    exact absurd hstatus (by decide)
  · cases hr
    exact absurd hstatus (by decide)
  · rw [reply_comp, runBlock_comp_fade, fadeStep_toNat]

/-! ### The increment -/

theorem wantedGain_eq (user : BitVec 64) (factor : Int) : wantedGain user factor = user.toInt * factor / 2 ^ 24 := by
  rw [wantedGain, compUnityShift_eq, Int.shiftRight_eq_div_pow]
  rfl

/-- R150 on a quotient: an increase is divided by 16, rounded down. -/
theorem slew_eq_attack (user cur : BitVec 64) (factor : Int) (rate : F64) (n : Nat) :
    slew user cur factor rate n =
      let a := (wantedGain user factor - cur.toInt).tdiv (slewDivisor rate n)
      if 0 < a then a / 16 else a := by
  rw [slew_eq, wantedGain_eq]
  rfl

theorem slewDivisor_pos (rate : F64) (n : Nat) : 0 < slewDivisor rate n := by unfold slewDivisor; omega

theorem le_slewDivisor (rate : F64) (n : Nat) : (n : Int) ≤ slewDivisor rate n := le_max_right _ _

section
variable {user cur : BitVec 64} {factor : Int}

/-- A gain below the wanted one rises, in as many frames as the divisor counts by a sixteenth of the way at most. -/
theorem slew_rise (h : cur.toInt ≤ wantedGain user factor) (rate : F64) (n : Nat) :
    0 ≤ slew user cur factor rate n ∧
      16 * (slewDivisor rate n * slew user cur factor rate n) ≤ wantedGain user factor - cur.toInt := by
  have hD := slewDivisor_pos rate n
  have hway : 0 ≤ wantedGain user factor - cur.toInt := sub_nonneg.2 h
  have hquot := Int.tdiv_nonneg hway hD.le
  have hreach := Int.mul_tdiv_self_le (k := slewDivisor rate n) hway
  rw [slew_eq_attack]
  generalize (wantedGain user factor - cur.toInt).tdiv (slewDivisor rate n) = a at hquot hreach ⊢
  have hstep : 0 ≤ (if 0 < a then a / 16 else a) ∧ 16 * (if 0 < a then a / 16 else a) ≤ a := by split_ifs <;> omega
  refine ⟨hstep.1, le_trans ?_ hreach⟩
  rw [mul_left_comm]
  exact mul_le_mul_of_nonneg_left hstep.2 hD.le

/-- A gain above the wanted one falls, in as many frames as the divisor counts not past it. -/
theorem slew_fall (h : wantedGain user factor ≤ cur.toInt) (rate : F64) (n : Nat) :
    slew user cur factor rate n ≤ 0 ∧
      wantedGain user factor - cur.toInt ≤ slewDivisor rate n * slew user cur factor rate n := by
  have hD := slewDivisor_pos rate n
  have hway : 0 ≤ -(wantedGain user factor - cur.toInt) := by omega
  have hquot := Int.tdiv_nonneg hway hD.le
  have hreach := Int.mul_tdiv_self_le (k := slewDivisor rate n) hway
  rw [Int.neg_tdiv] at hquot hreach
  rw [mul_neg, neg_le_neg_iff] at hreach
  rw [neg_nonneg] at hquot
  rw [slew_eq_attack, if_neg hquot.not_gt]
  exact ⟨hquot, hreach⟩

/-- Up to the divisor's count, increments keep a rising gain at a sixteenth of the way. -/
theorem mul_slew_le {n : Nat} {i : Nat} (hi : i ≤ n) (h : cur.toInt ≤ wantedGain user factor) (rate : F64) :
    16 * (i * slew user cur factor rate n) ≤ wantedGain user factor - cur.toInt := by
  obtain ⟨hnonneg, hreach⟩ := slew_rise h rate n
  have hcount : (i : Int) ≤ slewDivisor rate n := le_trans (by exact_mod_cast hi) (le_slewDivisor rate n)
  have := mul_le_mul_of_nonneg_right hcount hnonneg
  omega

/-- Up to the divisor's count, increments do not take a falling gain past the wanted one. -/
theorem le_mul_slew {n : Nat} {i : Nat} (hi : i ≤ n) (h : wantedGain user factor ≤ cur.toInt) (rate : F64) :
    wantedGain user factor - cur.toInt ≤ i * slew user cur factor rate n := by
  obtain ⟨hnonpos, hreach⟩ := slew_fall h rate n
  have hcount : (i : Int) ≤ slewDivisor rate n := le_trans (by exact_mod_cast hi) (le_slewDivisor rate n)
  have := mul_le_mul_of_nonpos_right hcount hnonpos
  omega

/-- The gain of every frame of the block lies between the starting gain and the wanted one. -/
theorem slew_between {n : Nat} {i : Nat} (hi : i ≤ n) (rate : F64) :
    min cur.toInt (wantedGain user factor) ≤ cur.toInt + i * slew user cur factor rate n ∧
      cur.toInt + i * slew user cur factor rate n ≤ max cur.toInt (wantedGain user factor) := by
  rcases le_total cur.toInt (wantedGain user factor) with h | h
  · have hnonneg : 0 ≤ (i : Int) * slew user cur factor rate n :=
      mul_nonneg (Int.natCast_nonneg i) (slew_rise h rate n).1
    have hway := mul_slew_le hi h rate
    omega
  · have hnonpos : (i : Int) * slew user cur factor rate n ≤ 0 :=
      mul_nonpos_of_nonneg_of_nonpos (Int.natCast_nonneg i) (slew_fall h rate n).1
    have hway := le_mul_slew hi h rate
    omega

end

/-- Settles O49: a rising gain by `slew_rise`, a falling one by `slew_fall`. -/
theorem slewNeverOvershoots : Obligations.SlewNeverOvershoots := by
  intro user cur factor rate n want a
  have hfall : want ≤ cur.toInt → a ≤ 0 ∧ want ≤ cur.toInt + n * a := fun h =>
    ⟨(slew_fall h rate n).1, by linarith [le_mul_slew le_rfl h rate (n := n)]⟩
  have hrise : cur.toInt ≤ want → 0 ≤ a ∧ 16 * (n * a) ≤ want - cur.toInt := fun h =>
    ⟨(slew_rise h rate n).1, mul_slew_le le_rfl h rate⟩
  refine ⟨?_, hfall, hrise⟩
  rcases le_total cur.toInt want with h | h
  · obtain ⟨hnonneg, hway⟩ := hrise h
    have hmul : 0 ≤ (n : Int) * a := mul_nonneg (Int.natCast_nonneg n) hnonneg
    rw [abs_of_nonneg hnonneg, abs_of_nonneg (sub_nonneg.2 h)]
    omega
  · obtain ⟨hnonpos, hway⟩ := hfall h
    rw [abs_of_nonpos hnonpos, abs_of_nonpos (sub_nonpos.2 h), mul_neg]
    omega

end Sys2Proof.Machine
end

section
/-! The compressor's level and factor with their numbers (R145 to R148), and why ratio 1.0 changes nothing (R154 (iii)):
the correction is 0 dB, the factor unity, and a gain of unity scales by 2^24 and back without rounding. -/

namespace Sys2Proof.Machine

/-! ### Level and factor -/

theorem levelDb_eq (c : Config) (p : Nat) :
    levelDb c p =
      fadd (fmul ⟨0x4024000000000000#64⟩
        (flog10 c (fadd (fdiv (i2d p) ⟨0x42F0000000000000#64⟩) c.compEps))) ⟨0x402A000000000000#64⟩ := by
  rw [levelDb, compDbOffset_eq]
  rfl

theorem blockFactor_eq (c : Config) (ratio : F64) (fade : BitVec 8) (p : Nat) :
    blockFactor c ratio fade p =
      d2i (fmul ⟨0x4170000000000000#64⟩ (fpow10 c (fdiv
        (c.compSoften (fmul (fsub (fdiv (levelDb c p) ratio) (levelDb c p))
          (fdiv (i2d fade.toNat) ⟨0x4059000000000000#64⟩))) ⟨0x4034000000000000#64⟩))) := by
  rw [blockFactor, multiplier, correction, rawCorrection, fadeFraction, fadeMaxF_eq, compUnityF_eq]
  rfl

/-! ### Ratio 1.0 -/

theorem fdiv_fone {x : F64} (hx : isFinite x = true) : fdiv x fone = x := by
  have h0 : isZero fone = false := by decide
  have hround := roundsTo_fdiv hx hasValue_fone.1 h0
  rw [hasValue_fone.2, div_one] at hround
  refine eq_of_toReal_eq_of_fsign (hround.hasValue (hasValue_toReal hx)).2 ?_
  rw [fdiv_of_isFinite hx hasValue_fone.1 h0, fsign_roundPack, (by decide : fsign fone = false), Bool.bne_false]

theorem fsub_self {x : F64} (hx : isFinite x = true) : fsub x x = posZero := by
  obtain ⟨-, -, -, -, -, hdiff⟩ := sumAndProductRound x x hx hx
  rw [hdiff (sub_self _), Bool.and_not_self]
  rfl

theorem posZero_fmul {x : F64} (hx : isFinite x = true) (hsign : fsign x = false) : fmul posZero x = posZero := by
  have hzero : isZero posZero = true := by decide
  refine eq_of_toReal_eq_of_fsign ?_ ?_
  · rw [isZero_iff.1 (isZero_fmul_left hzero hx), isZero_iff.1 hzero]
  · rw [fsign_fmul hasValue_posZero.1 hx, hsign, Bool.bne_false]

/-- At ratio 1.0 the level asked for is the level there is. -/
theorem rawCorrection_fone (fade : BitVec 8) {lvl : F64} (h : isFinite lvl = true) :
    rawCorrection fone fade lvl = posZero := by
  obtain ⟨hfin, hsign⟩ := fadeFraction_finite fade
  rw [rawCorrection, fdiv_fone h, fsub_self h, posZero_fmul hfin hsign]

/-- A correction of 0 dB is the factor unity (R148). -/
theorem multiplier_posZero (c : Config) : multiplier c posZero = 2 ^ 24 := by
  have hpow : fpow10 c (fdiv posZero twenty) = fone := by
    rw [(by decide +kernel : fdiv posZero twenty = posZero), fpow10, if_pos (by decide)]
  rw [multiplier, hpow]
  decide +kernel

theorem softenQuadratic_posZero : softenQuadratic posZero = posZero := by decide +kernel

/-! ### A gain of unity -/

theorem wantedGain_unity (factor : Int) : wantedGain 0x1000000#64 factor = factor := by
  rw [wantedGain_eq, (by decide : (0x1000000#64).toInt = 2 ^ 24), Int.mul_ediv_cancel_left _ (by norm_num)]

theorem slew_of_wanted {user cur : BitVec 64} {factor : Int} (h : wantedGain user factor = cur.toInt) (rate : F64)
    (n : Nat) : slew user cur factor rate n = 0 :=
  le_antisymm (slew_fall h.le rate n).1 (slew_rise h.ge rate n).1

/-- A significand of at most 53 bits on a grid no finer than the subnormal one, below the infinities, is a magnitude. -/
theorem exists_magReal_eq_mul_zpow {m : Nat} {e : ℤ} (hm : m < 2 ^ 53) (he : -1074 ≤ e)
    (hlt : (m : ℝ) * (2 : ℝ) ^ e < magReal infMag) : ∃ n < infMag, magReal n = (m : ℝ) * (2 : ℝ) ^ e := by
  suffices ∃ n, magReal n = (m : ℝ) * (2 : ℝ) ^ e by
    obtain ⟨n, hn⟩ := this
    exact ⟨n, magReal_lt.1 (hn ▸ hlt), hn⟩
  rcases eq_or_ne m 0 with rfl | h0
  · exact ⟨0, by rw [magReal_zero, Nat.cast_zero, zero_mul]⟩
  have hlo : 2 ^ Nat.log2 m ≤ m := (Nat.le_log2 h0).1 le_rfl
  have hhi : m < 2 ^ (Nat.log2 m + 1) := (Nat.log2_lt h0).1 (Nat.lt_succ_self _)
  have hlog : Nat.log2 m < 53 := (Nat.log2_lt h0).2 hm
  generalize hk : min (52 - Nat.log2 m) (e + 1074).toNat = k
  have hr53 : m * 2 ^ k ≤ 2 ^ 53 :=
    calc m * 2 ^ k ≤ 2 ^ (Nat.log2 m + 1) * 2 ^ (52 - Nat.log2 m) :=
          Nat.mul_le_mul hhi.le (Nat.pow_le_pow_right two_pos (by omega))
      _ = 2 ^ 53 := by rw [← pow_add]; congr 1; omega
  have hgrid : e - k = -1074 ∨ 2 ^ 52 ≤ m * 2 ^ k := by
    rcases Nat.lt_or_ge (e + 1074).toNat (52 - Nat.log2 m) with h | h
    · left; omega
    · right
      calc 2 ^ 52 = 2 ^ Nat.log2 m * 2 ^ k := by rw [← pow_add]; congr 1; omega
        _ ≤ m * 2 ^ k := Nat.mul_le_mul_right _ hlo
  refine ⟨_, (magReal_encode (by omega) hr53 hgrid).trans ?_⟩
  rw [zpow_sub₀ two_ne_zero, zpow_natCast, Nat.cast_mul, Nat.cast_pow, Nat.cast_ofNat]
  field_simp

/-- Below 2^1000 a word times 2^24 is a word. -/
theorem exists_hasValue_mul_unity {x : F64} (hx : |toReal x| < 2 ^ 1000) : ∃ z, HasValue z (toReal x * 2 ^ 24) := by
  have hmag : magReal (fmag x) * 2 ^ 24 = (fsig x : ℝ) * (2 : ℝ) ^ (fexpo x + 24) := by
    rw [magReal_fmag, zpow_add₀ two_ne_zero, mul_assoc]
    norm_cast
  have hlt : (fsig x : ℝ) * (2 : ℝ) ^ (fexpo x + 24) < magReal infMag := by
    rw [← hmag, magReal_infMag, ← abs_toReal]
    calc |toReal x| * 2 ^ 24 < 2 ^ 1000 * 2 ^ 24 := by gcongr
      _ = 2 ^ 54 * (2 : ℝ) ^ (970 : ℤ) := by
        rw [(by norm_num : (970 : ℤ) = (970 : ℕ)), zpow_natCast, ← pow_add, ← pow_add]
  obtain ⟨n, hn, hval⟩ := exists_magReal_eq_mul_zpow (fsig_lt x) (by unfold fexpo; omega) hlt
  have hn63 : n < 2 ^ 63 := hn.trans infMag_lt
  refine ⟨ofParts (fsign x) n, isFinite_iff.2 (by rwa [fmag_ofParts _ hn63]), ?_⟩
  rw [toReal_ofParts _ hn63, hval, ← hmag, toReal_eq]
  split_ifs <;> ring

theorem hasValue_compUnityF : HasValue compUnityF (2 ^ 24) := by
  have h : compUnityF = i2d 16777216 := by decide +kernel
  rw [h, (by norm_num : (2 : ℝ) ^ 24 = (16777216 : ℤ))]
  exact hasValue_i2d (by norm_num)

/-- A gain of unity passes a word whose scaled value is a word: both the product and the quotient are exact. -/
theorem applyGain_unity {x : F64} (hx : isFinite x = true) (hlt : |toReal x| < 2 ^ 1000) :
    applyGain 0x1000000#64 x = x := by
  obtain ⟨hunity, hunityVal⟩ := hasValue_compUnityF
  obtain ⟨z, hz⟩ := exists_hasValue_mul_unity hlt
  have hunity0 : isZero compUnityF = false := by rw [compUnityF_eq]; decide
  have hprod := (hasValue_toReal hx).mul hasValue_compUnityF hz rfl
  have hquot := roundsTo_fdiv hprod.1 hunity hunity0
  rw [hprod.2, hunityVal, mul_div_cancel_right₀ _ (by norm_num)] at hquot
  show fdiv (fmul x compUnityF) compUnityF = x
  refine eq_of_toReal_eq_of_fsign (hquot.hasValue (hasValue_toReal hx)).2 ?_
  rw [fdiv_of_isFinite hprod.1 hunity hunity0, fsign_roundPack, fsign_fmul hx hunity, Bool.bne_assoc, bne_self_eq_false,
    Bool.bne_false]

/-- Settles O51: the numbers by `levelDb_eq` and `blockFactor_eq`; at ratio 1.0 every step from the correction to the
scaled sample is exact. -/
theorem ratioOneIsTransparent : Obligations.RatioOneIsTransparent := by
  refine ⟨fun c ratio fade p => ?_, fun c fade p hsoften hlevel => ?_, fun rate n => ?_, fun x hlt hx => ?_⟩
  · rw [← levelDb_eq]
    exact ⟨rfl, blockFactor_eq c ratio fade p⟩
  · have hcorr : correction c fone fade (levelDb c p) = posZero := by
      rw [correction, rawCorrection_fone fade hlevel, hsoften, ← compWindowDepth_eq]
      exact softenQuadratic_posZero
    show multiplier c (correction c fone fade (levelDb c p)) = 2 ^ 24
    rw [hcorr, multiplier_posZero]
  · exact slew_of_wanted (wantedGain_unity _) rate n
  · exact applyGain_unity hx hlt

end Sys2Proof.Machine
end

section
/-! The compressor running alone (R141 to R151): its block step with every number, and the gain ramp over the frames. -/

namespace Sys2Proof.Machine

/-! ### The block step -/

/-- One channel of the analysis (R142): its words of the block through its weighting filter, their squares added. -/
def meter (words : List F64) (n channel : Nat) (bp : Biquad) : Biquad × BitVec 64 :=
  (List.range n).foldl
    (fun a i =>
      let p := bqProcess a.1 ((words[2 * i + channel]?).getD posZero)
      (p.1, addSquare a.2 p.2))
    (bp, 0#64)

theorem compAnalyse_eq_meter {words : List F64} {n : Nat} (h : words.length = 2 * n) (bp : Stereo Biquad) :
    compAnalyse bp ⟨0#64, 0#64⟩ words =
      (⟨(meter words n 0 bp.l).1, (meter words n 1 bp.r).1⟩, ⟨(meter words n 0 bp.l).2, (meter words n 1 bp.r).2⟩) :=
  compAnalyse_eq h bp ⟨0#64, 0#64⟩

/-- The block step (R141) from what the two meters and the correction of the louder channel's power (R144) give. -/
theorem compBlock_eq {c : Config} {rate : F64} {n : Nat} {words : List F64} (h : words.length = 2 * n) {k : Compressor}
    {left right : Biquad × BitVec 64} {factor : Int} (hl : meter words n 0 k.bp.l = left)
    (hr : meter words n 1 k.bp.r = right)
    (hfactor : blockFactor c k.ratio (fadeStep k.en k.fade)
      (max (left.2.toNat / max n 1) (right.2.toNat / max n 1)) = factor) :
    compBlock c rate n words k =
      ({ k with bp := ⟨left.1, right.1⟩, fade := fadeStep k.en k.fade },
        ⟨slew k.user.l k.cur.l factor rate n, slew k.user.r k.cur.r factor rate n⟩) := by
  subst hl hr hfactor
  rw [compBlock, compAnalyse_eq_meter h]
  rfl

/-! ### Gains that do not saturate -/

/-- A number in the `i64` range. -/
def FitsI64 (v : Int) : Prop := -2 ^ 63 ≤ v ∧ v < 2 ^ 63

theorem fitsI64_toInt (v : BitVec 64) : FitsI64 v.toInt := ⟨BitVec.le_toInt v, BitVec.toInt_lt⟩

theorem toInt_satI64 {v : Int} (h : FitsI64 v) : (satI64 v).toInt = v := by
  obtain ⟨hlo, hhi⟩ := h
  have hclamp : clampI64 v = v := by unfold clampI64 i64Min i64Max; omega
  rw [satI64, hclamp, BitVec.toInt_ofInt_eq_self (by norm_num) hlo hhi]

theorem fitsI64_d2i (x : F64) : FitsI64 (d2i x) := by
  have hclamp (v : Int) : FitsI64 (clampI64 v) := by unfold FitsI64 clampI64 i64Min i64Max; omega
  cases hfin : isFinite x with
  | true => rw [d2i_of_isFinite hfin]; exact hclamp _
  | false =>
    rcases isNaN_or_isInf hfin with hnan | hinf
    · rw [d2i_of_isNaN hnan]; exact ⟨by norm_num, by norm_num⟩
    · rw [d2i_of_isInf hinf]; unfold FitsI64; split_ifs <;> omega

/-- A gain on its way to a wanted one in the `i64` range stays in it. -/
theorem fitsI64_ramp {user cur : BitVec 64} {factor : Int} (hwant : FitsI64 (wantedGain user factor)) (rate : F64)
    {n i : Nat} (hi : i ≤ n) : FitsI64 (cur.toInt + i * slew user cur factor rate n) := by
  obtain ⟨hlo, hhi⟩ := hwant
  obtain ⟨hcurLo, hcurHi⟩ := fitsI64_toInt cur
  obtain ⟨hmin, hmax⟩ := slew_between (user := user) (cur := cur) (factor := factor) hi rate
  exact ⟨by omega, by omega⟩

/-! ### The frames -/

theorem applyGain_eq (gain : BitVec 64) (x : F64) :
    applyGain gain x = fdiv (fmul x (i2d gain.toInt)) ⟨0x4170000000000000#64⟩ := by rw [applyGain, compUnityF_eq]

/-- The compressor's registers after `i` frames. -/
def compFrames (adj : Stereo Int) (i : Nat) (k : Compressor) : Compressor := (compFrameNext adj)^[i] k

/-- The frames move the gains and nothing else. -/
theorem compFrames_eq (adj : Stereo Int) (i : Nat) (k : Compressor) :
    compFrames adj i k = { k with cur := (compFrames adj i k).cur } := by
  induction i generalizing k with
  | zero => rfl
  | succ i ih => exact ih (compFrameNext adj k)

/-- Where no gain leaves the `i64` range, `i` frames add `i` increments. -/
theorem compFrames_cur {adj : Stereo Int} {k : Compressor} {i : Nat}
    (hl : ∀ j ≤ i, FitsI64 (k.cur.l.toInt + j * adj.l)) (hr : ∀ j ≤ i, FitsI64 (k.cur.r.toInt + j * adj.r)) :
    (compFrames adj i k).cur.l.toInt = k.cur.l.toInt + i * adj.l ∧
      (compFrames adj i k).cur.r.toInt = k.cur.r.toInt + i * adj.r := by
  induction i with
  | zero => simp [compFrames]
  | succ i ih =>
    obtain ⟨ihl, ihr⟩ := ih (fun j hj => hl j (by omega)) (fun j hj => hr j (by omega))
    have hnext (cur a : Int) : cur + (i : Int) * a + a = cur + (i + 1 : Nat) * a := by push_cast; ring
    rw [compFrames, Function.iterate_succ_apply', ← compFrames]
    simp only [compFrameNext, ihl, ihr, hnext]
    exact ⟨toInt_satI64 (hl _ le_rfl), toInt_satI64 (hr _ le_rfl)⟩

/-- With user gains of unity (R32) the gains move by their increments unsaturated: each stays between its start and the
wanted one. -/
theorem compFrames_cur_of_slew {k : Compressor} (huser : k.user = ⟨compUnity, compUnity⟩) {factor : Int}
    (hfactor : FitsI64 factor) (rate : F64) {n i : Nat} (hi : i ≤ n) {al ar : Int}
    (hl : slew k.user.l k.cur.l factor rate n = al) (hr : slew k.user.r k.cur.r factor rate n = ar) :
    (compFrames ⟨al, ar⟩ i k).cur.l.toInt = k.cur.l.toInt + i * al ∧
      (compFrames ⟨al, ar⟩ i k).cur.r.toInt = k.cur.r.toInt + i * ar := by
  have hwant : FitsI64 (wantedGain compUnity factor) := by rwa [compUnity_eq, wantedGain_unity]
  rw [huser] at hl hr
  subst hl hr
  exact compFrames_cur (fun j hj => fitsI64_ramp hwant rate (hj.trans hi))
    (fun j hj => fitsI64_ramp hwant rate (hj.trans hi))

/-- With the compressor alone running, the frames of a block are its frames: each pair of words scaled by the gains of
its frame. -/
theorem runFrames_comp_alone (c : Config) (adj : Stereo Int) (s : State) {words : List F64} {n : Nat}
    (hw : words.length = 2 * n) :
    (runFrames c ⟨true, false, false, false⟩ adj s words).1 = { s with comp := compFrames adj n s.comp } ∧
    ∀ i < n,
      (runFrames c ⟨true, false, false, false⟩ adj s words).2[2 * i]? =
        some (applyGain (compFrames adj i s.comp).cur.l ((words[2 * i]?).getD posZero)) ∧
      (runFrames c ⟨true, false, false, false⟩ adj s words).2[2 * i + 1]? =
        some (applyGain (compFrames adj i s.comp).cur.r ((words[2 * i + 1]?).getD posZero)) := by
  induction words using List.twoStepInduction generalizing s n with
  | nil =>
    obtain rfl : n = 0 := by simpa using hw.symm
    exact ⟨rfl, fun i hi => absurd hi (by omega)⟩
  | singleton x => exact absurd hw (by simp; omega)
  | cons_cons l r rest ih =>
    obtain ⟨m, rfl⟩ : ∃ m, n = m + 1 := ⟨n - 1, by simp at hw; omega⟩
    obtain ⟨hstate, hout⟩ := ih { s with comp := compFrameNext adj s.comp } (n := m) (by simp at hw; omega)
    have hframe : chainFrame c ⟨true, false, false, false⟩ adj s l r =
      ({ s with comp := compFrameNext adj s.comp }, applyGain s.comp.cur.l l, applyGain s.comp.cur.r r) := rfl
    rw [runFrames_cons, hframe]
    refine ⟨hstate, fun i hi => ?_⟩
    cases i with
    | zero => exact ⟨rfl, rfl⟩
    | succ j => exact hout j (by omega)

/-! ### The block -/

/-- The block of a compressor running alone: the block step, then its frames. -/
theorem runBlock_comp_alone (c : Config) {n : Nat} {s : State} (hlen : s.sin.length = 2 * n) (hen : s.comp.en = true)
    (hb : s.bass.en = false) (hv : s.virt.en = false) (he : s.eq.en = false) {k : Compressor} {adj : Stereo Int}
    (hblock : compBlock c s.rate n s.sin s.comp = (k, adj)) :
    (runBlock c n s).1 = { s with comp := compFrames adj n k } ∧
    ∀ i < n,
      (runBlock c n s).2[2 * i]? = some (applyGain (compFrames adj i k).cur.l ((s.sin[2 * i]?).getD posZero)) ∧
      (runBlock c n s).2[2 * i + 1]? =
        some (applyGain (compFrames adj i k).cur.r ((s.sin[2 * i + 1]?).getD posZero)) := by
  have hgates : gatesOf s = ⟨true, false, false, false⟩ := by rw [gatesOf, compRuns, hen, hb, hv, he, Bool.true_or]
  rw [runBlock, hgates, blockStep_of_runs c rfl, hblock]
  exact runFrames_comp_alone c adj _ hlen

/-- Settles O50: the block step by the laws of the compressor, the frames by `runBlock_comp_alone`; the gains stay
between the starting and the wanted one, so no write of theirs saturates. -/
theorem compressorGainRamp : Obligations.CompressorGainRamp := by
  intro n s hok hc hlen hen hb hv he word addSquared metered left right power level fade correction factor increment
    al ar
  have hmeter (channel : Nat) (bp : Biquad) : meter s.sin n.toNat channel bp = metered channel bp := by
    simp only [meter, addSquare_eq]
    rfl
  have hfade : (fadeStep s.comp.en s.comp.fade).toNat = fade := by rw [fadeStep_toNat, if_pos hen]
  have hfactor : blockFactor cfg s.comp.ratio (fadeStep s.comp.en s.comp.fade) power = factor := by
    rw [blockFactor_eq, levelDb_eq, hfade]
  have hslew (user cur : BitVec 64) : slew user cur factor s.rate n.toNat = increment user cur := by
    rw [slew_eq]
    rfl
  have hblock : compBlock cfg s.rate n.toNat s.sin s.comp =
      ({ s.comp with bp := ⟨left.1, right.1⟩, fade := fadeStep s.comp.en s.comp.fade }, ⟨al, ar⟩) :=
    (compBlock_eq hlen (hmeter 0 _) (hmeter 1 _) hfactor).trans (by rw [hslew, hslew])
  obtain ⟨hstate, hout⟩ := runBlock_comp_alone cfg hlen hen hb hv he hblock
  have hgain {i : Nat} (hi : i ≤ n.toNat) := compFrames_cur_of_slew
    (k := { s.comp with bp := ⟨left.1, right.1⟩, fade := fadeStep s.comp.en s.comp.fade }) hok.comp.user
    (fitsI64_d2i _) s.rate hi (hslew _ _) (hslew _ _)
  refine ⟨_, activeResult (runBlock cfg n.toNat s).1, _, exec_process_of_no_fault hc (hok.processFault_none hlen), ?_,
    length_runBlock cfg hlen, ?_⟩
  · rw [hstate]
    rfl
  rw [hstate]
  refine ⟨?_, ?_, (hgain le_rfl).1, (hgain le_rfl).2, fun i hi => ?_⟩
  · rw [reply_comp, compFrames_eq]
  · rw [reply_comp, compFrames_eq]
    exact hfade
  · obtain ⟨hleft, hright⟩ := hout i hi
    obtain ⟨hl, hr⟩ := hgain hi.le
    rw [hleft, hright, applyGain_eq, applyGain_eq, hl, hr]
    exact ⟨rfl, rfl⟩

end Sys2Proof.Machine
end

section
/-! The bass boost running alone (R163, R164): one filter runs on the sums of the frames, and each frame adds its output
to both words. -/

namespace Sys2Proof.Machine

/-! ### The sums of a block -/

/-- What the bass filter is given in frame `i` of a block (R163): the sum of its two words. -/
def frameSum (words : List F64) (i : Nat) : F64 :=
  fadd ((words[2 * i]?).getD posZero) ((words[2 * i + 1]?).getD posZero)

theorem frameSum_zero (l r : F64) (rest : List F64) : frameSum (l :: r :: rest) 0 = fadd l r := rfl

theorem frameSum_succ (l r : F64) (rest : List F64) (i : Nat) :
    frameSum (l :: r :: rest) (i + 1) = frameSum rest i := rfl

/-- The bass filter after the first `i` frames of a block. -/
def bassFilter (words : List F64) (i : Nat) (b : Biquad) : Biquad := bqCalls b ((List.range i).map (frameSum words))

theorem bassFilter_zero (words : List F64) (b : Biquad) : bassFilter words 0 b = b := rfl

theorem bassFilter_succ (l r : F64) (rest : List F64) (i : Nat) (b : Biquad) :
    bassFilter (l :: r :: rest) (i + 1) b = bassFilter rest i (bqProcess b (fadd l r)).1 := by
  rw [bassFilter, List.range_succ_eq_map, List.map_cons, List.map_map, bqCalls_cons, frameSum_zero]
  rfl

/-! ### The frames -/

/-- With the bass boost alone running, a frame of the chain is its frame. -/
theorem chainFrame_bass_alone (c : Config) (adj : Stereo Int) (s : State) (l r : F64) :
    chainFrame c ⟨false, true, false, false⟩ adj s l r =
      ({ s with bass := { s.bass with lp := (bqProcess s.bass.lp (fadd l r)).1 } },
        fadd l (bqProcess s.bass.lp (fadd l r)).2, fadd r (bqProcess s.bass.lp (fadd l r)).2) := rfl

/-- With the bass boost alone running, the filter is carried through the frames of a block, and each frame's output is
added to both of its words. -/
theorem runFrames_bass_alone (c : Config) (adj : Stereo Int) (s : State) {words : List F64} {n : Nat}
    (hw : words.length = 2 * n) :
    (runFrames c ⟨false, true, false, false⟩ adj s words).1 =
      { s with bass := { s.bass with lp := bassFilter words n s.bass.lp } } ∧
    ∀ i < n,
      (runFrames c ⟨false, true, false, false⟩ adj s words).2[2 * i]? =
        some (fadd ((words[2 * i]?).getD posZero)
          (bqProcess (bassFilter words i s.bass.lp) (frameSum words i)).2) ∧
      (runFrames c ⟨false, true, false, false⟩ adj s words).2[2 * i + 1]? =
        some (fadd ((words[2 * i + 1]?).getD posZero)
          (bqProcess (bassFilter words i s.bass.lp) (frameSum words i)).2) := by
  induction words using List.twoStepInduction generalizing s n with
  | nil =>
    obtain rfl : n = 0 := by simpa using hw.symm
    exact ⟨rfl, fun i hi => absurd hi (by omega)⟩
  | singleton x => exact absurd hw (by simp; omega)
  | cons_cons l r rest ih =>
    obtain ⟨m, rfl⟩ : ∃ m, n = m + 1 := ⟨n - 1, by simp at hw; omega⟩
    obtain ⟨hstate, hout⟩ := ih { s with bass := { s.bass with lp := (bqProcess s.bass.lp (fadd l r)).1 } }
      (n := m) (by simp at hw; omega)
    rw [runFrames_cons, chainFrame_bass_alone, bassFilter_succ]
    refine ⟨hstate, fun i hi => ?_⟩
    cases i with
    | zero => exact ⟨rfl, rfl⟩
    | succ j =>
      rw [bassFilter_succ, frameSum_succ]
      exact hout j (by omega)

/-! ### The block -/

/-- The block of a bass boost running alone: there is no block step, only its frames. -/
theorem runBlock_bass_alone (c : Config) (n : Nat) {s : State} (hen : s.comp.en = false) (hfade : s.comp.fade = 0#8)
    (hb : s.bass.en = true) (hv : s.virt.en = false) (he : s.eq.en = false) :
    runBlock c n s = runFrames c ⟨false, true, false, false⟩ ⟨0, 0⟩ s s.sin := by
  have hgates : gatesOf s = ⟨false, true, false, false⟩ := by
    rw [gatesOf, compRuns_eq_false.2 ⟨hen, hfade⟩, hb, hv, he]
  rw [runBlock, hgates, blockStep_of_not_runs c rfl]

/-- Neither a delay line nor a refresh can stop a block in which the virtualizer and the equalizer are off. -/
theorem processFault_none_of_off {n : Nat} {s : State} (hlen : s.sin.length = 2 * n) (hv : s.virt.en = false)
    (he : s.eq.en = false) : processFault n s = none :=
  processFault_none.2
    ⟨hlen, fun hen => absurd hen (ne_true_of_eq_false hv), fun hen => absurd hen (ne_true_of_eq_false he)⟩

/-- Settles O52: nothing stops the block, and its frames are those of `runFrames_bass_alone`. -/
theorem bassAddsOneBoostToBoth : Obligations.BassAddsOneBoostToBoth := by
  intro n s hc hlen hen hfade hb hv he word sum filter
  have hfilter (i : Nat) : bassFilter s.sin i s.bass.lp = filter i := List.foldl_map
  obtain ⟨hstate, hout⟩ := runFrames_bass_alone cfg ⟨0, 0⟩ s hlen
  rw [← runBlock_bass_alone cfg n.toNat hen hfade hb hv he] at hstate hout
  refine ⟨_, activeResult (runBlock cfg n.toNat s).1, _,
    exec_process_of_no_fault hc (processFault_none_of_off hlen hv he), ?_, length_runBlock cfg hlen, fun i hi => ?_⟩
  · rw [hstate, hfilter]
    rfl
  · obtain ⟨hleft, hright⟩ := hout i hi
    rw [hleft, hright, hfilter]
    exact ⟨rfl, rfl⟩

end Sys2Proof.Machine
end

section
/-! The equalizer's band knobs (R230 to R235), one frame of it written out (R176, R177, R181), and its loudness estimate,
which never falls below the level (R183 (iv)). -/

namespace Sys2Proof.Machine

/-! ### The band knobs -/

/-- Settles O16: `i64Operand` decides for all six bands alike. -/
theorem setpEqBands : Obligations.SetpEqBands := by
  refine fun opd s => ⟨decode_setpWord (pid := 0x31#8) rfl, decode_setpWord (pid := 0x32#8) rfl,
    decode_setpWord (pid := 0x33#8) rfl, decode_setpWord (pid := 0x34#8) rfl, decode_setpWord (pid := 0x35#8) rfl,
    decode_setpWord (pid := 0x36#8) rfl, fun h => ?_, fun h => ?_⟩
  · have hv : i64Operand eqGainMin eqGainMax opd = some opd := i64Operand_eq_some.2 ⟨rfl, h⟩
    exact ⟨exec_of_legal (exec_setpEqBand0 opd) hv s, exec_of_legal (exec_setpEqBand1 opd) hv s,
      exec_of_legal (exec_setpEqBand2 opd) hv s, exec_of_legal (exec_setpEqBand3 opd) hv s,
      exec_of_legal (exec_setpEqBand4 opd) hv s, exec_of_legal (exec_setpEqBand5 opd) hv s⟩
  · have hv : i64Operand eqGainMin eqGainMax opd = none := i64Operand_eq_none.2 h
    exact ⟨exec_of_illegal (exec_setpEqBand0 opd) hv s, exec_of_illegal (exec_setpEqBand1 opd) hv s,
      exec_of_illegal (exec_setpEqBand2 opd) hv s, exec_of_illegal (exec_setpEqBand3 opd) hv s,
      exec_of_illegal (exec_setpEqBand4 opd) hv s, exec_of_illegal (exec_setpEqBand5 opd) hv s⟩

/-! ### One frame written out -/

theorem loudUpdate_eq (c : Config) (interval : BitVec 32) (loud : F64) (pwr : BitVec 64) :
    loudUpdate c interval loud pwr =
      if fgt loud (fadd (loudnessDb c pwr interval) ⟨0x3FB999999999999A#64⟩) then fsub loud ⟨0x3FB999999999999A#64⟩
      else loudnessDb c pwr interval := by
  rw [loudUpdate, eqDecayStep_eq]

theorem eqFadeStep_eq (en : Bool) (fade : BitVec 8) :
    eqFadeStep en fade = if en = true ∧ fade.toNat < 100 then fade + 1#8 else fade := by
  rw [eqFadeStep, fadeMax_eq]
  cases en <;> simp

theorem eqDue_eq (c : Config) (rate : F64) (e : Equalizer) :
    eqDue c rate e =
      if e.next = 0#32 then
        eqRefresh c e.interval rate
          { e with
            next := e.interval
            loud := ⟨loudUpdate c e.interval e.loud.l e.pwr.l, loudUpdate c e.interval e.loud.r e.pwr.r⟩
            pwr := ⟨0#64, 0#64⟩
            fade := if e.en = true ∧ e.fade.toNat < 100 then e.fade + 1#8 else e.fade }
      else e := by
  rw [eqDue, eqRefreshFrame, eqFadeStep_eq]

/-- A counter counts down by one and stays at 0 there, for the write saturates (R13, R181). -/
theorem satU_pred_eq (n : BitVec 32) : satU 32 ((n.toNat : Int) - 1) = BitVec.ofNat 32 (n.toNat - 1) := by
  have := n.isLt
  rw [satU]
  congr 1
  omega

theorem eqFilter_eq (e : Equalizer) (l r : F64) :
    eqFilter e l r =
      ({ e with
          next := BitVec.ofNat 32 (e.next.toNat - 1)
          pwr := ⟨BitVec.ofNat 64 (min (e.pwr.l.toNat + (d2i l).natAbs ^ 2) (2 ^ 64 - 1)),
            BitVec.ofNat 64 (min (e.pwr.r.toNat + (d2i r).natAbs ^ 2) (2 ^ 64 - 1))⟩
          sh := ⟨(runShelves e.sh.l l).1, (runShelves e.sh.r r).1⟩ },
        (runShelves e.sh.l l).2, (runShelves e.sh.r r).2) := by
  rw [eqFilter, satU_pred_eq, addSquare_eq, addSquare_eq]

/-! ### The loudness estimate -/

theorem abs_toReal_le {z : F64} (hz : isFinite z = true) : |toReal z| ≤ (2 ^ 54 - 2) * (2 : ℝ) ^ (970 : ℤ) := by
  have hmag : fmag z ≤ infMag - 1 := Nat.le_sub_one_of_lt (isFinite_iff.1 hz)
  rw [abs_toReal, ← magReal_infMag_pred]
  exact magReal_strictMono.monotone hmag

section
variable {r z : F64} {v : ℝ}

/-- Rounding does not cross a word: from above it, to nowhere below it. -/
theorem RoundsTo.le_toReal (h : RoundsTo r v) (hv : |v| < (2 ^ 54 - 1) * (2 : ℝ) ^ (970 : ℤ)) (hz : isFinite z = true)
    (hle : toReal z ≤ v) : toReal z ≤ toReal r := by
  by_contra hlt
  rw [not_le] at hlt
  have hnear := ((h.1 hv).2 z hz).1
  rw [abs_of_nonpos (by linarith), abs_of_nonpos (by linarith)] at hnear
  linarith

/-- A word above a rounded number is not below the number. -/
theorem RoundsTo.le_of_lt_toReal (h : RoundsTo r v) (hv : |v| < (2 ^ 54 - 1) * (2 : ℝ) ^ (970 : ℤ))
    (hz : isFinite z = true) (hlt : toReal r < toReal z) : v ≤ toReal z := by
  by_contra hgt
  exact absurd (h.le_toReal hv hz (not_le.1 hgt).le) (not_le.2 hlt)

end

/-- A number between two words, or up to 1 above, does not overflow: the margin beyond the greatest word is wider. -/
theorem abs_lt_of_between {x y : F64} {v : ℝ} (hx : isFinite x = true) (hy : isFinite y = true) (hlo : toReal x ≤ v)
    (hhi : v ≤ toReal y + 1) : |v| < (2 ^ 54 - 1) * (2 : ℝ) ^ (970 : ℤ) := by
  obtain ⟨hxlo, -⟩ := abs_le.1 (abs_toReal_le hx)
  obtain ⟨-, hyhi⟩ := abs_le.1 (abs_toReal_le hy)
  have hone : 1 < (2 : ℝ) ^ (970 : ℤ) := one_lt_zpow₀ one_lt_two (by norm_num)
  generalize (2 : ℝ) ^ (970 : ℤ) = unit at *
  exact abs_lt.2 ⟨by linarith, by linarith⟩

/-- A word above `x + d` as rounded is not below `x` after a step `d` down, as rounded: the word is not below the exact
sum, and `x` is itself a word. -/
theorem fle_fsub_of_fgt_fadd {x y d : F64} (hx : isFinite x = true) (hy : isFinite y = true) (hd : isFinite d = true)
    (hd0 : 0 ≤ toReal d) (hd1 : toReal d ≤ 1) (h : fgt y (fadd x d) = true) : fle x (fsub y d) = true := by
  obtain ⟨hadd, -⟩ := sumAndProductRound x d hx hd
  obtain ⟨-, hsub, -⟩ := sumAndProductRound y d hy hd
  have haddRange := abs_lt_of_between hx hx (v := toReal x + toReal d) (by linarith) (by linarith)
  have haddFin : isFinite (fadd x d) = true := (hadd.1 haddRange).1
  have hsum : toReal x + toReal d ≤ toReal y :=
    hadd.le_of_lt_toReal haddRange hy ((flt_iff (isNaN_of_isFinite haddFin) (isNaN_of_isFinite hy)).1 h)
  have hsubRange := abs_lt_of_between hx hy (v := toReal y - toReal d) (by linarith) (by linarith)
  have hsubFin : isFinite (fsub y d) = true := (hsub.1 hsubRange).1
  exact (fle_iff (isNaN_of_isFinite hx) (isNaN_of_isFinite hsubFin)).2
    (hsub.le_toReal hsubRange hx (by linarith))

theorem eqDecayStep_range : isFinite eqDecayStep = true ∧ 0 ≤ toReal eqDecayStep ∧ toReal eqDecayStep ≤ 1 := by
  rw [eqDecayStep_eq]
  have hfin : isFinite ⟨0x3FB999999999999A#64⟩ = true := by decide
  refine ⟨hfin, ?_, ?_⟩
  · rw [← hasValue_posZero.2]
    exact (fle_iff (isNaN_of_isFinite hasValue_posZero.1) (isNaN_of_isFinite hfin)).1 (by decide)
  · rw [← hasValue_fone.2]
    exact (fle_iff (isNaN_of_isFinite hfin) (isNaN_of_isFinite hasValue_fone.1)).1 (by decide)

/-- The estimate falls only while it stays above the level (R183 (iv)). -/
theorem loudnessDb_fle_loudUpdate {c : Config} {interval : BitVec 32} {loud : F64} {pwr : BitVec 64}
    (hloud : isFinite loud = true) (hlevel : isFinite (loudnessDb c pwr interval) = true) :
    fle (loudnessDb c pwr interval) (loudUpdate c interval loud pwr) = true := by
  rw [loudUpdate]
  split_ifs with hfall
  · obtain ⟨hfin, hnonneg, hle⟩ := eqDecayStep_range
    exact fle_fsub_of_fgt_fadd hlevel hloud hfin hnonneg hle hfall
  · exact (fle_iff (isNaN_of_isFinite hlevel) (isNaN_of_isFinite hlevel)).2 le_rfl

end Sys2Proof.Machine
end

section
/-! The cadence of the equalizer's refreshes over a PROCESS (R179, R183 (iii)): the counts as numbers, and each frame as
one step of them. -/

namespace Sys2Proof.Machine

/-! ### The cadence in numbers -/

/-- The frames left to the next refresh after `k` frames, of `due` at first and `period` after each refresh (R179). -/
def nextAfter (due period k : Nat) : Nat :=
  if k ≤ due then due - k else (period - (k - due) % period) % period

/-- The refreshes that `k` frames hold (R183 (iii)). -/
def refreshesIn (due period k : Nat) : Nat :=
  if k ≤ due then 0 else (k - due + period - 1) / period

section
variable {due period : Nat}

/-- From the first refresh on, the two counts are one formula each. -/
theorem nextAfter_add (m : Nat) : nextAfter due period (due + m) = (period - m % period) % period := by
  rw [nextAfter]
  split_ifs with h
  · obtain rfl : m = 0 := by omega
    simp
  · rw [Nat.add_sub_cancel_left]

theorem refreshesIn_add (hp : 0 < period) (m : Nat) : refreshesIn due period (due + m) = (m + period - 1) / period := by
  rw [refreshesIn]
  split_ifs with h
  · obtain rfl : m = 0 := by omega
    rw [Nat.zero_add, Nat.div_eq_of_lt (by omega)]
  · rw [Nat.add_sub_cancel_left]

theorem mod_countdown_eq (hp : 0 < period) (m : Nat) :
    (period - m % period) % period = if m % period = 0 then 0 else period - m % period := by
  split_ifs with h
  · rw [h, Nat.sub_zero, Nat.mod_self]
  · exact Nat.mod_eq_of_lt (by omega)

/-- The frames that a period with `m` of its frames gone still holds, a whole one reloaded. -/
theorem reload_countdown_eq (hp : 0 < period) (m : Nat) :
    (if (period - m % period) % period = 0 then period else (period - m % period) % period) = period - m % period := by
  have hlt : m % period < period := Nat.mod_lt m hp
  rw [mod_countdown_eq hp]
  by_cases h : m % period = 0
  · rw [if_pos h, if_pos rfl, h, Nat.sub_zero]
  · rw [if_neg h, if_neg (by omega)]

/-- A frame reloads the counter if it is at 0, then counts down. -/
theorem nextAfter_succ (hp : 0 < period) (k : Nat) :
    nextAfter due period (k + 1) = (if nextAfter due period k = 0 then period else nextAfter due period k) - 1 := by
  rcases Nat.lt_or_ge k due with h | h
  · rw [nextAfter, nextAfter, if_pos (by omega), if_pos h.le, if_neg (by omega), Nat.sub_sub]
  · obtain ⟨m, rfl⟩ := Nat.exists_eq_add_of_le h
    have hlt : m % period < period := Nat.mod_lt m hp
    rw [Nat.add_assoc, nextAfter_add, nextAfter_add, reload_countdown_eq hp, ← Nat.mod_add_mod]
    rcases Nat.lt_or_ge (m % period + 1) period with hr | hr
    · rw [Nat.mod_eq_of_lt hr, Nat.mod_eq_of_lt (by omega), Nat.sub_sub]
    · obtain hr : m % period + 1 = period := by omega
      rw [hr, Nat.mod_self, Nat.sub_zero, Nat.mod_self]
      omega

/-- A frame holds a refresh if the counter is at 0. -/
theorem refreshesIn_succ (hp : 0 < period) (k : Nat) :
    refreshesIn due period (k + 1) = refreshesIn due period k + if nextAfter due period k = 0 then 1 else 0 := by
  rcases Nat.lt_or_ge k due with h | h
  · rw [refreshesIn, refreshesIn, nextAfter, if_pos (by omega), if_pos h.le, if_pos h.le, if_neg (by omega)]
  · obtain ⟨m, rfl⟩ := Nat.exists_eq_add_of_le h
    have hdvd : period ∣ m + period - 1 + 1 ↔ nextAfter due period (due + m) = 0 := by
      rw [Nat.sub_add_cancel (by omega), Nat.dvd_add_self_right, Nat.dvd_iff_mod_eq_zero, nextAfter_add,
        mod_countdown_eq hp]
      have hlt : m % period < period := Nat.mod_lt m hp
      split_ifs <;> omega
    rw [Nat.add_assoc, refreshesIn_add hp, refreshesIn_add hp, show m + 1 + period - 1 = m + period - 1 + 1 by omega,
      Nat.succ_div]
    simp only [hdvd]

end

/-! ### The cadence of the frames -/

theorem eqDue_eq_ite_toNat (c : Config) (rate : F64) (e : Equalizer) :
    eqDue c rate e = if e.next.toNat = 0 then eqRefreshFrame c rate e else e := by
  have hzero : e.next = 0#32 ↔ e.next.toNat = 0 := BitVec.toNat_inj.symm
  simp only [eqDue, hzero]

/-- A frame's counter (R181): reloaded with the interval when it is at 0, then counted down. -/
theorem eqFrame_next_toNat (c : Config) (rate : F64) (e : Equalizer) (l r : F64) :
    (eqFrame c rate e l r).1.next.toNat = (if e.next.toNat = 0 then e.interval.toNat else e.next.toNat) - 1 := by
  have hdue : (eqDue c rate e).next.toNat = if e.next.toNat = 0 then e.interval.toNat else e.next.toNat := by
    rw [eqDue_eq_ite_toNat]
    split_ifs <;> rfl
  have hlt := (eqDue c rate e).next.isLt
  rw [eqFrame, eqFilter_eq, ← hdue]
  exact (BitVec.toNat_ofNat ..).trans (Nat.mod_eq_of_lt (by omega))

/-- An enabled equalizer's fade is one step up at a refresh, at most 100 (R177). -/
theorem eqFrame_fade_toNat (c : Config) (rate : F64) {e : Equalizer} (hen : e.en = true) (hfade : e.fade.toNat ≤ 100)
    (l r : F64) :
    (eqFrame c rate e l r).1.fade.toNat = min 100 (e.fade.toNat + if e.next.toNat = 0 then 1 else 0) := by
  show (eqDue c rate e).fade.toNat = _
  rw [eqDue_eq_ite_toNat]
  split_ifs with h
  · show (eqFadeStep e.en e.fade).toNat = _
    simp only [eqFadeStep_eq, hen, true_and]
    split_ifs <;> bv_omega
  · omega

/-- The equalizer `f` is `e` after `m` frames of it enabled, whatever their samples, as far as its cadence goes: its
settings as they were, the counter and the fade moved by the refreshes those frames hold. -/
structure EqAdvanced (e : Equalizer) (m : Nat) (f : Equalizer) : Prop where
  settings : f.settings = e.settings
  next : f.next.toNat = nextAfter e.next.toNat e.interval.toNat m
  fade : f.fade.toNat = min 100 (e.fade.toNat + refreshesIn e.next.toNat e.interval.toNat m)

section
variable {e f : Equalizer} {m : Nat}

theorem EqAdvanced.refl (h : EqualizerOk e) : EqAdvanced e 0 e where
  settings := rfl
  next := (if_pos (Nat.zero_le _)).symm
  fade := by
    have hfade : e.fade.toNat ≤ 100 := h.fade
    rw [refreshesIn, if_pos (Nat.zero_le _)]
    omega

theorem EqAdvanced.interval (h : EqAdvanced e m f) : f.interval = e.interval := by
  rw [Equalizer.eq_of_settings h.settings]

theorem EqAdvanced.en (h : EqAdvanced e m f) : f.en = e.en := by
  rw [Equalizer.eq_of_settings h.settings]

theorem EqAdvanced.frame (h : EqAdvanced e m f) (hen : e.en = true) (hperiod : 1 ≤ e.interval.toNat) (c : Config)
    (rate : F64) (l r : F64) : EqAdvanced e (m + 1) (eqFrame c rate f l r).1 where
  settings := (eqFrame_settings c rate f l r).trans h.settings
  next := by rw [eqFrame_next_toNat, h.next, h.interval, nextAfter_succ hperiod]
  fade := by
    have hfade : f.fade.toNat ≤ 100 := h.fade ▸ min_le_left _ _
    rw [eqFrame_fade_toNat c rate (h.en.trans hen) hfade, h.fade, h.next, refreshesIn_succ hperiod]
    omega

end

/-- With the equalizer running, a block of `n` frames is `n` frames of it. -/
theorem runBlock_eqAdvanced (c : Config) {n : Nat} {s : State} (h : EqualizerOk s.eq) (hen : s.eq.en = true)
    (hlen : s.sin.length = 2 * n) : EqAdvanced s.eq n (runBlock c n s).1.eq := by
  have hstart : (blockStep c (gatesOf s) n s).1.eq = s.eq := by rw [blockStep_state]
  have hgate : (gatesOf s).eq = true := hen
  have hcount := runFrames_counts (c := c) (g := gatesOf s) (adj := (blockStep c (gatesOf s) n s).2) (k := 0)
    (fun m t => EqAdvanced s.eq m t.eq)
    (fun m t l r hm => by
      obtain ⟨_, _, _, _, e0, e1, hframe⟩ := chainFrame_state c (gatesOf s) (blockStep c (gatesOf s) n s).2 t l r
      rw [hframe, hgate]
      exact hm.frame hen h.interval c t.rate e0 e1)
    (by rw [hstart]; exact .refl h) hlen
  rwa [Nat.zero_add] at hcount

/-- Settles O54: the frame by `eqDue_eq` and `eqFilter_eq`; the estimate by `fle_fsub_of_fgt_fadd`; the cadence because
the block has advanced by `n` frames. -/
theorem eqRefreshCadence : Obligations.EqRefreshCadence := by
  refine ⟨fun c rate e l r => ?_, fun c interval loud pwr hloud hlevel => loudnessDb_fle_loudUpdate hloud hlevel,
    fun n s t r hok hexec hr hstatus hen => ?_⟩
  · intro level estimate due addSquared cascade
    have hestimate (loud : F64) (pwr : BitVec 64) : loudUpdate c e.interval loud pwr = estimate loud pwr :=
      loudUpdate_eq c e.interval loud pwr
    have hdue : eqDue c rate e = due := by rw [eqDue_eq, hestimate, hestimate]
    rw [eqFrame, hdue, eqFilter_eq]
    rfl
  · rcases processWith_next hexec with ⟨-, rfl⟩ | ⟨-, -, rfl⟩ | ⟨-, -, hfault, rfl⟩
    · cases hr
      exact absurd hstatus (by decide)
    · cases hr
      exact absurd hstatus (by decide)
    · have h := runBlock_eqAdvanced cfg hok.eq hen (processFault_none.1 hfault).1
      exact ⟨h.interval, h.next, h.fade⟩

end Sys2Proof.Machine
end

section
/-! The virtualizer: its strength knob (R191, R239), a frame written out (R194, R195), the delayed input that its wet
pair is without feedback (R198 (i)), and the mono frame that level 0 passes (R197). -/

namespace Sys2Proof.Machine

/-! ### The strength knob -/

theorem eq_zero_iff_toInt_eq_zero (v : BitVec 64) : v = 0#64 ↔ v.toInt = 0 := by
  rw [← BitVec.toInt_inj, BitVec.toInt_zero]

/-- The registers of R191 by the strength as a number. -/
theorem virtDerive_eq (c : Config) (v : Virtualizer) :
    virtDerive c v =
      { v with
        deep := decide (v.strength.toInt ≠ 0)
        wide := decide (500 ≤ v.strength.toInt)
        level :=
          if v.strength.toInt = 0 then 0#64
          else
            satU 64 (d2i (fmul (fpow10 c (fdiv (fadd ⟨0xC02E000000000000#64⟩
              (fmul ⟨0x4024000000000000#64⟩ (fdiv (i2d v.strength.toInt) ⟨0x408F400000000000#64⟩))) twenty))
              ⟨0x41F0000000000000#64⟩)) } := by
  simp only [virtDerive, virtDeepOf, virtWideOf, virtWideThresh_eq, virtLevelOf, ne_eq, eq_zero_iff_toInt_eq_zero,
    virtAttSpanDb_eq, strengthMaxF_eq, virtUnityF_eq]
  rfl

/-- Settles O18: the legal words are those `i64Operand` names, and the registers are those of `virtDerive_eq`. -/
theorem setpVirtStrength : Obligations.SetpVirtStrength := by
  refine fun opd s => ⟨decode_setpWord (pid := 0x41#8) rfl, fun h => ?_, fun h => ?_⟩
  · rw [exec_of_legal (exec_setpVirtStrength opd) (i64Operand_eq_some.2 ⟨rfl, h⟩), setVirtStrength, virtDerive_eq]
    rfl
  · exact exec_of_illegal (exec_setpVirtStrength opd) (i64Operand_eq_none.2 h) s

/-! ### A frame written out -/

theorem attenuate_eq (level : BitVec 64) (d : F64) :
    attenuate level d = fdiv (fmul d (i2d level.toNat)) ⟨0x41F0000000000000#64⟩ := by
  rw [attenuate, virtUnityF_eq]

theorem sideReduced_eq (mode : VirtSideMode) (side y : F64) :
    sideReduced mode side y = if mode = .filter then y else fsub side y := by
  cases mode <;> rfl

theorem virtFrame_last (c : Config) (v : Virtualizer) (l r : F64) : (virtFrame c v l r).1.last = virtWet v l r := rfl

theorem virtFrame_out (c : Config) (v : Virtualizer) (l r : F64) :
    (virtFrame c v l r).2 =
      (fadd (virtCenter (virtWet v l r) l r) (sideReduced c.virtSideMode (virtSide (virtWet v l r) l r)
          (bqProcess v.loc (virtSide (virtWet v l r) l r)).2),
        fsub (virtCenter (virtWet v l r) l r) (sideReduced c.virtSideMode (virtSide (virtWet v l r) l r)
          (bqProcess v.loc (virtSide (virtWet v l r) l r)).2)) := rfl

/-- R194 with its numbers. -/
theorem virtFrame_eq (c : Config) (v : Virtualizer) (l r : F64) :
    let pl := dlProcess v.dly.l (virtFeed v l v.last.r)
    let pr := dlProcess v.dly.r (virtFeed v r v.last.l)
    let wl := fdiv (fmul pl.2 (i2d v.level.toNat)) ⟨0x41F0000000000000#64⟩
    let wr := fdiv (fmul (if v.wide then fneg pr.2 else pr.2) (i2d v.level.toNat)) ⟨0x41F0000000000000#64⟩
    let y := bqProcess v.loc (virtSide ⟨wl, wr⟩ l r)
    let reduced := if c.virtSideMode = .filter then y.2 else fsub (virtSide ⟨wl, wr⟩ l r) y.2
    virtFrame c v l r =
      ({ v with dly := ⟨pl.1, pr.1⟩, last := ⟨wl, wr⟩, loc := y.1 },
        fadd (virtCenter ⟨wl, wr⟩ l r) reduced, fsub (virtCenter ⟨wl, wr⟩ l r) reduced) := by
  simp only [virtFrame, virtWet, attenuate_eq, sideReduced_eq, dlProcess]

/-! ### Without feedback -/

/-- The virtualizer after the given frames. -/
def virtCalls (c : Config) (v : Virtualizer) (frames : List (F64 × F64)) : Virtualizer :=
  frames.foldl (fun k f => (virtFrame c k f.1 f.2).1) v

theorem virtFeed_of_not_deep {v : Virtualizer} (h : v.deep = false) (x other : F64) : virtFeed v x other = x := by
  rw [virtFeed, h, if_neg Bool.false_ne_true]

/-- Without feedback the two lines run on the frames' own words; the wet pair and the shelf are all else that moves. -/
theorem virtCalls_of_not_deep (c : Config) {v : Virtualizer} (h : v.deep = false) (frames : List (F64 × F64)) :
    virtCalls c v frames =
      { v with
        dly := ⟨dlFeed v.dly.l (frames.map Prod.fst), dlFeed v.dly.r (frames.map Prod.snd)⟩
        last := (virtCalls c v frames).last
        loc := (virtCalls c v frames).loc } := by
  induction frames generalizing v with
  | nil => rfl
  | cons f fs ih =>
    have hstep : virtCalls c v (f :: fs) = virtCalls c (virtFrame c v f.1 f.2).1 fs := rfl
    have hdly : (virtFrame c v f.1 f.2).1.dly = ⟨dlNext v.dly.l f.1, dlNext v.dly.r f.2⟩ := by
      rw [virtFrame, virtFeed_of_not_deep h, virtFeed_of_not_deep h]
    rw [hstep, ih (v := (virtFrame c v f.1 f.2).1) h, hdly]
    rfl

/-- R198 (i) for lines in any state: the wet pair is what the lines, fed the inputs alone, return. -/
theorem virtWet_virtCalls_of_not_deep (c : Config) {v : Virtualizer} (h : v.deep = false) (frames : List (F64 × F64))
    (l r : F64) :
    virtWet (virtCalls c v frames) l r =
      ⟨attenuate v.level (dlOut (dlFeed v.dly.l (frames.map Prod.fst)) l),
        attenuate v.level (if v.wide then fneg (dlOut (dlFeed v.dly.r (frames.map Prod.snd)) r)
          else dlOut (dlFeed v.dly.r (frames.map Prod.snd)) r)⟩ := by
  rw [virtCalls_of_not_deep c h]
  simp only [virtWet, virtFeed, h, Bool.false_eq_true, if_false]

/-! ### Level 0 -/

theorem isZero_attenuate_zero {d : F64} (hd : isFinite d = true) : isZero (attenuate 0#64 d) = true := by
  have hunity : isFinite virtUnityF = true ∧ isZero virtUnityF = false := by rw [virtUnityF_eq]; decide
  have hprod : isZero (fmul d (i2d (0#64).toNat)) = true := isZero_fmul_right hd (by decide)
  have hquot := roundsTo_fdiv (isFinite_of_isZero hprod) hunity.1 hunity.2
  rw [isZero_iff.1 hprod, zero_div] at hquot
  exact hasValue_zero_iff.1 (hquot.hasValue hasValue_posZero)

/-- R197: at level 0 the wet pair is zero, inverted or not. -/
theorem isZero_virtWet {v : Virtualizer} {l r : F64} (h0 : v.level = 0#64)
    (hl : isFinite (dlOut v.dly.l (virtFeed v l v.last.r)) = true)
    (hr : isFinite (dlOut v.dly.r (virtFeed v r v.last.l)) = true) :
    isZero (virtWet v l r).l = true ∧ isZero (virtWet v l r).r = true := by
  simp only [virtWet, h0]
  refine ⟨isZero_attenuate_zero hl, isZero_attenuate_zero ?_⟩
  split_ifs
  · exact isFinite_fneg hr
  · exact hr

theorem hasValue_half : HasValue half (1 / 2) := by
  refine ⟨by decide, ?_⟩
  rw [toReal, (by decide : fsigned half = 2 ^ 52), (by decide : fexpo half = -53)]
  norm_num

/-- Below 2^1023 twice a word is a word. -/
theorem exists_hasValue_add_self {x : F64} (hx : |toReal x| < 2 ^ 1023) : ∃ z, HasValue z (toReal x + toReal x) := by
  have hmag : magReal (fmag x) + magReal (fmag x) = (fsig x : ℝ) * (2 : ℝ) ^ (1 + fexpo x) := by
    rw [magReal_fmag, zpow_one_add₀ two_ne_zero]
    ring
  have hlt : (fsig x : ℝ) * (2 : ℝ) ^ (1 + fexpo x) < magReal infMag := by
    rw [← hmag, magReal_infMag, ← abs_toReal]
    calc |toReal x| + |toReal x| < 2 ^ 1023 + 2 ^ 1023 := add_lt_add hx hx
      _ = 2 ^ 54 * (2 : ℝ) ^ (970 : ℤ) := by
        rw [(by norm_num : (970 : ℤ) = (970 : ℕ)), zpow_natCast, ← two_mul, ← pow_succ', ← pow_add]
  obtain ⟨n, hn, hval⟩ := exists_magReal_eq_mul_zpow (fsig_lt x) (by unfold fexpo; omega) hlt
  have hn63 : n < 2 ^ 63 := hn.trans infMag_lt
  refine ⟨ofParts (fsign x) n, isFinite_iff.2 (by rwa [fmag_ofParts _ hn63]), ?_⟩
  rw [toReal_ofParts _ hn63, hval, ← hmag, toReal_eq]
  split_ifs <;> ring

section
variable {x : F64} {wet : Stereo F64}

/-- The center of a mono frame with a zero wet pair keeps the frame's value: the sum is exact, and so is its half. -/
theorem virtCenter_mono (hx : isFinite x = true) (hlt : |toReal x| < 2 ^ 1023) (hl : isZero wet.l = true)
    (hr : isZero wet.r = true) : HasValue (virtCenter wet x x) (toReal x) := by
  obtain ⟨z, hz⟩ := exists_hasValue_add_self hlt
  have hv := hasValue_toReal hx
  exact ((hv.add_isZero hl).add (hv.add_isZero hr) hz rfl).mul hasValue_half hv (by ring)

/-- The side of such a frame is zero. -/
theorem isZero_virtSide_mono (hx : isFinite x = true) (hl : isZero wet.l = true) (hr : isZero wet.r = true) :
    isZero (virtSide wet x x) = true := by
  have hv := hasValue_toReal hx
  have hdiff := (hv.add_isZero hl).sub (hv.add_isZero hr) hasValue_posZero (sub_self _)
  exact isZero_fmul_left (hasValue_zero_iff.1 hdiff) hasValue_half.1

end

/-- One call on a zero through a zero history answers zero, with a ramp under way too: the output takes the set from
before the call's step (R110). -/
theorem isZero_bqProcess {b : Biquad} {x : F64} (hcur : FiniteSet b.cur) (h1 : isZero b.w1 = true)
    (h2 : isZero b.w2 = true) (hx : isZero x = true) : isZero (bqProcess b x).2 = true :=
  Silent.isZero_out (b := { b with rem := 0#32 }) ⟨rfl, hcur, h1, h2⟩ hx

theorem isZero_sideReduced {side y : F64} (mode : VirtSideMode) (hside : isZero side = true) (hy : isZero y = true) :
    isZero (sideReduced mode side y) = true := by
  cases mode with
  | filter => exact hy
  | subtract => exact hasValue_zero_iff.1 ((hasValue_zero_iff.2 hside).sub_isZero hy)

/-- R197: at level 0 a mono frame through a zero localization history keeps its value on both channels. -/
theorem virtFrame_mono (c : Config) {v : Virtualizer} {x : F64} (h0 : v.level = 0#64)
    (hl : isFinite (dlOut v.dly.l (virtFeed v x v.last.r)) = true)
    (hr : isFinite (dlOut v.dly.r (virtFeed v x v.last.l)) = true) (hx : isFinite x = true)
    (hlt : |toReal x| < 2 ^ 1023) (hcur : FiniteSet v.loc.cur) (h1 : isZero v.loc.w1 = true)
    (h2 : isZero v.loc.w2 = true) :
    HasValue (virtFrame c v x x).2.1 (toReal x) ∧ HasValue (virtFrame c v x x).2.2 (toReal x) := by
  obtain ⟨hwl, hwr⟩ := isZero_virtWet h0 hl hr
  have hcenter := virtCenter_mono hx hlt hwl hwr
  have hside := isZero_virtSide_mono hx hwl hwr
  have hreduced := isZero_sideReduced c.virtSideMode hside (isZero_bqProcess hcur h1 h2 hside)
  rw [virtFrame_out]
  exact ⟨hcenter.add_isZero hreduced, hcenter.sub_isZero hreduced⟩

/-- Settles O56: the frame is `virtFrame_eq`; without feedback its lines follow the delay law; at level 0 the wet pair
is zero, and only a zero shares its value with another word. -/
theorem virtSilentAtStrengthZero : Obligations.VirtSilentAtStrengthZero := by
  refine ⟨virtFrame_eq, fun c v rate secondsL secondsR frames l r hdeep => ?_,
    fun c v l r h0 hl hr => isZero_virtWet h0 hl hr, fun c v x h0 hl hr hx hlt hcur h1 h2 => ?_⟩
  · intro start now delayed dl dr
    have hnow : now = virtCalls c start frames := rfl
    have hdl : dlOut (dlFeed start.dly.l (frames.map Prod.fst)) l = dl := by
      rw [dlOut_dlFeed_dlConfigure, List.length_map]
    have hdr : dlOut (dlFeed start.dly.r (frames.map Prod.snd)) r = dr := by
      rw [dlOut_dlFeed_dlConfigure, List.length_map]
    rw [virtFrame_last, hnow, virtWet_virtCalls_of_not_deep c (v := start) hdeep, hdl, hdr, attenuate_eq, attenuate_eq]
  · obtain ⟨hoL, hoR⟩ := virtFrame_mono c h0 hl hr hx hlt hcur h1 h2
    refine ⟨fun hx0 => Prod.ext (eq_of_toReal_eq hx0 hoL.2) (eq_of_toReal_eq hx0 hoR.2), fun hx0 => ?_⟩
    rw [isZero_iff.1 hx0] at hoL hoR
    exact ⟨hasValue_zero_iff.1 hoL, hasValue_zero_iff.1 hoR⟩

end Sys2Proof.Machine
end

section
/-! The knobs as one list in the order of R84: a GETP answers its entry (R240), a SETP replaces it and recomputes what
hangs on it (R222), and no other command touches the list (R205, R221). -/

namespace Sys2Proof.Machine

/-! ### The knobs and what is beside them -/

/-- The words that the GETPs answer (R85), in the order of `knobPairs`. -/
def State.knobs (s : State) : List (BitVec 64) :=
  [encodeBool s.masterEn, encodeBool s.comp.en, encodeF64 s.comp.ratio, encodeBool s.bass.en, encodeI64 s.bass.strength,
    encodeF64 s.bass.freq, encodeBool s.eq.en, encodeI64 s.eq.band.b0, encodeI64 s.eq.band.b1, encodeI64 s.eq.band.b2,
    encodeI64 s.eq.band.b3, encodeI64 s.eq.band.b4, encodeI64 s.eq.band.b5, encodeBool s.eq.loudEn,
    encodeF64 s.eq.loudRef, encodeBool s.virt.en, encodeI64 s.virt.strength]

/-- The registers beside the knobs: the knobs at 0 and the port empty.  `BASS_FREQ` stays, because it is the one knob
that the SETP of another knob reads (R162). -/
def State.beside (s : State) : State :=
  { s with
    masterEn := false
    comp := { s.comp with en := false, ratio := posZero }
    bass := { s.bass with en := false, strength := 0#64 }
    eq := { s.eq with en := false, band := ⟨0#64, 0#64, 0#64, 0#64, 0#64, 0#64⟩, loudEn := false, loudRef := posZero }
    virt := { s.virt with en := false, strength := 0#64 }
    sin := []
    response := none }

/-- Every register of the block: the knobs and what is beside them. -/
def State.view (s : State) : List (BitVec 64) × State := (s.knobs, s.beside)

theorem encodeBool_injective : Function.Injective encodeBool := by decide

theorem encodeF64_injective : Function.Injective encodeF64 := by
  rintro ⟨x⟩ ⟨y⟩ h
  exact congrArg F64.mk h

/-- The registers are the knobs put back into what is beside them. -/
theorem registers_eq_beside (u : State) :
    u.registers =
      { u.beside with
        masterEn := u.masterEn
        comp := { u.beside.comp with en := u.comp.en, ratio := u.comp.ratio }
        bass := { u.beside.bass with en := u.bass.en, strength := u.bass.strength }
        eq :=
          { u.beside.eq with
            en := u.eq.en
            band := ⟨u.eq.band.b0, u.eq.band.b1, u.eq.band.b2, u.eq.band.b3, u.eq.band.b4, u.eq.band.b5⟩
            loudEn := u.eq.loudEn
            loudRef := u.eq.loudRef }
        virt := { u.beside.virt with en := u.virt.en, strength := u.virt.strength }
        sin := u.sin } := rfl

theorem registers_eq_of_view {s t : State} (h : s.view = t.view) (hsin : s.sin = t.sin) :
    s.registers = t.registers := by
  obtain ⟨hknobs, hbeside⟩ := Prod.ext_iff.1 h
  simp only [State.view, State.knobs, List.cons.injEq, encodeBool_injective.eq_iff, encodeF64_injective.eq_iff,
    encodeI64] at hknobs
  obtain ⟨master, compEn, ratio, bassEn, strength, -, eqEn, b0, b1, b2, b3, b4, b5, loudEn, loudRef, virtEn,
    virtStrength, -⟩ := hknobs
  rw [registers_eq_beside s, registers_eq_beside t, show s.beside = t.beside from hbeside, master, compEn, ratio,
    bassEn, strength, eqEn, b0, b1, b2, b3, b4, b5, loudEn, loudRef, virtEn, virtStrength, hsin]

/-! ### GETP -/

theorem exec_getps (s : State) :
    knobPairs.map (fun p => exec p.2 s) = s.knobs.map (fun v => complete v s) := rfl

/-- A GETP answers its entry of the list. -/
theorem exec_getp {n : Nat} {p : (BitVec 64 → Instr) × Instr} (h : knobPairs[n]? = some p) (s : State) :
    ∃ v, s.knobs[n]? = some v ∧ exec p.2 s = complete v s := by
  have hn := congrArg (·[n]?) (exec_getps s)
  simp only [List.getElem?_map, h, Option.map_some] at hn
  obtain ⟨v, hv, hcomplete⟩ := Option.map_eq_some_iff.1 hn.symm
  exact ⟨v, hv, hcomplete.symm⟩

/-! ### SETP -/

/-- All that a SETP with the operand `opd` can write where its knob is entry `n` of the list: the entry alone, or one of
the three knobs on which other registers hang (R31). -/
inductive KnobWrite : Nat → BitVec 64 → (State → State) → Prop
  | plain {n : Nat} {opd : BitVec 64} {f : State → State} (hknobs : ∀ s, (f s).knobs = s.knobs.set n opd)
      (hbeside : ∀ s, (f s).beside = s.beside) : KnobWrite n opd f
  | bassStrength (opd : BitVec 64) : KnobWrite 4 opd (setBassStrength cfg opd)
  | bassFreq (opd : BitVec 64) : KnobWrite 5 opd (setBassFreq cfg ⟨opd⟩)
  | virtStrength (opd : BitVec 64) : KnobWrite 16 opd (setVirtStrength cfg opd)

theorem setBassStrength_eq (c : Config) (v : BitVec 64) (s : State) :
    setBassStrength c v s =
      { s with
        bass :=
          { s.bass with
            strength := v
            q := bassQOf v
            lp :=
              if s.configured then
                bqInstall (bqDesign c .lowpass s.bass.freq s.rate (bassQOf v) posZero posZero) c.bassInterval s.bass.lp
              else s.bass.lp } } := by
  rw [setBassStrength, bassRetune_eq]

theorem setBassFreq_eq (c : Config) (v : F64) (s : State) :
    setBassFreq c v s =
      { s with
        bass :=
          { s.bass with
            freq := v
            lp :=
              if s.configured then
                bqInstall (bqDesign c .lowpass v s.rate s.bass.q posZero posZero) c.bassInterval s.bass.lp
              else s.bass.lp } } := by
  rw [setBassFreq, bassRetune_eq]

/-- A second install leaves nothing of a first one over the same number of calls (R109). -/
theorem bqInstall_bqInstall (first second : Coeffs) (n : BitVec 32) (b : Biquad) :
    bqInstall second n (bqInstall first n b) = bqInstall second n b := by
  unfold bqInstall
  split <;> rfl

/-- The two bass knobs commute although both retune: the second retune replaces the first, with both knobs in place. -/
theorem setBassStrength_setBassFreq (c : Config) (v : BitVec 64) (f : F64) (s : State) :
    setBassStrength c v (setBassFreq c f s) = setBassFreq c f (setBassStrength c v s) := by
  cases hc : s.configured <;> simp [setBassStrength_eq, setBassFreq_eq, hc, bqInstall_bqInstall]

section
variable {n m : Nat} {x y : BitVec 64} {f g : State → State}

theorem KnobWrite.knobs (h : KnobWrite n x f) (s : State) : (f s).knobs = s.knobs.set n x := by
  cases h with
  | plain hknobs => exact hknobs s
  | bassStrength => rw [setBassStrength_eq]; rfl
  | bassFreq => rw [setBassFreq_eq]; rfl
  | virtStrength => rfl

/-- What a SETP leaves beside the knobs depends on what was beside them, not on the knobs. -/
theorem KnobWrite.beside (h : KnobWrite n x f) (s : State) : (f s).beside = (f s.beside).beside := by
  cases h with
  | plain _ hbeside => rw [hbeside, hbeside]; rfl
  | bassStrength => rw [setBassStrength_eq, setBassStrength_eq]; rfl
  | bassFreq => rw [setBassFreq_eq, setBassFreq_eq]; rfl
  | virtStrength => rfl

theorem KnobWrite.view_congr (h : KnobWrite n x f) {s t : State} (hview : s.view = t.view) :
    (f s).view = (f t).view := by
  obtain ⟨hknobs, hbeside⟩ := Prod.ext_iff.1 hview
  refine Prod.ext ?_ ?_
  · rw [State.view, State.view, h.knobs, h.knobs]
    exact congrArg (·.set n x) hknobs
  · show (f s).beside = (f t).beside
    rw [h.beside, h.beside t, show s.beside = t.beside from hbeside]

/-- A write that leaves everything beside the knobs goes before or after any other. -/
theorem KnobWrite.beside_comm_of_plain (hf : ∀ s, (f s).beside = s.beside) (hg : KnobWrite m y g) (s : State) :
    (f (g s)).beside = (g (f s)).beside := by
  rw [hf, hg.beside (f s), hf, ← hg.beside]

/-- Writes of different knobs commute. -/
theorem KnobWrite.view_comm (hf : KnobWrite n x f) (hg : KnobWrite m y g) (hne : n ≠ m) (s : State) :
    (f (g s)).view = (g (f s)).view := by
  have hknobs : (f (g s)).knobs = (g (f s)).knobs := by
    rw [hf.knobs, hg.knobs, hg.knobs, hf.knobs, List.set_comm x y hne]
  refine Prod.ext hknobs ?_
  show (f (g s)).beside = (g (f s)).beside
  cases hf with
  | plain _ hbeside => exact hg.beside_comm_of_plain hbeside s
  | bassStrength =>
    cases hg with
    | plain _ hbeside => exact ((KnobWrite.bassStrength x).beside_comm_of_plain hbeside s).symm
    | bassStrength => exact absurd rfl hne
    | bassFreq => rw [setBassStrength_setBassFreq]
    | virtStrength => rfl
  | bassFreq =>
    cases hg with
    | plain _ hbeside => exact ((KnobWrite.bassFreq x).beside_comm_of_plain hbeside s).symm
    | bassStrength => rw [setBassStrength_setBassFreq]
    | bassFreq => exact absurd rfl hne
    | virtStrength => rfl
  | virtStrength =>
    cases hg with
    | plain _ hbeside => exact ((KnobWrite.virtStrength x).beside_comm_of_plain hbeside s).symm
    | bassStrength => rfl
    | bassFreq => rfl
    | virtStrength => exact absurd rfl hne

end

/-- A SETP of entry `n` refuses its operand in every state or carries out one write in every state. -/
def SetpWrites (p : (BitVec 64 → Instr) × Instr) (n : Nat) : Prop :=
  ∀ opd, ∃ write : Option (State → State),
    (∀ s, exec (p.1 opd) s = setKnob write id s) ∧ ∀ f ∈ write, KnobWrite n opd f

section
variable {α : Type} {setp : BitVec 64 → Instr} {getp : Instr} {n : Nat} {operand : BitVec 64 → Option α}
  {write : α → State → State}

theorem setpWrites_of_knobWrite (hset : ∀ opd s, exec (setp opd) s = setKnob (operand opd) write s)
    (hwrite : ∀ opd v, operand opd = some v → KnobWrite n opd (write v)) : SetpWrites (setp, getp) n := by
  intro opd
  refine ⟨(operand opd).map write, fun s => ?_, fun f hf => ?_⟩
  · rw [hset]
    cases operand opd <;> rfl
  · obtain ⟨v, hv, rfl⟩ := Option.map_eq_some_iff.1 hf
    exact hwrite opd v hv

theorem setpWrites_of_plain {enc : α → BitVec 64} (hset : ∀ opd s, exec (setp opd) s = setKnob (operand opd) write s)
    (henc : ∀ {opd} v, operand opd = some v → enc v = opd)
    (hknobs : ∀ v s, (write v s).knobs = s.knobs.set n (enc v)) (hbeside : ∀ v s, (write v s).beside = s.beside) :
    SetpWrites (setp, getp) n :=
  setpWrites_of_knobWrite hset fun _ v hv => .plain (henc v hv ▸ hknobs v) (hbeside v)

end

theorem setpWrites_knobPairs : ∀ q ∈ knobPairs.zipIdx, SetpWrites q.1 q.2 := by
  simp only [knobPairs, List.zipIdx_cons, List.forall_mem_cons]
  exact ⟨setpWrites_of_plain exec_setpMasterEn encode_of_boolOperand (fun _ _ => rfl) fun _ _ => rfl,
    setpWrites_of_plain exec_setpCompEn encode_of_boolOperand (fun _ _ => rfl) fun _ _ => rfl,
    setpWrites_of_plain exec_setpCompRatio encode_of_f64Operand (fun _ _ => rfl) fun _ _ => rfl,
    setpWrites_of_plain exec_setpBassEn encode_of_boolOperand (fun _ _ => rfl) fun _ _ => rfl,
    setpWrites_of_knobWrite exec_setpBassStrength fun opd v hv => encode_of_i64Operand v hv ▸ .bassStrength v,
    setpWrites_of_knobWrite exec_setpBassFreq fun opd v hv => encode_of_f64Operand v hv ▸ .bassFreq v.bits,
    setpWrites_of_plain exec_setpEqEn encode_of_boolOperand (fun _ _ => rfl) fun _ _ => rfl,
    setpWrites_of_plain exec_setpEqBand0 encode_of_i64Operand (fun _ _ => rfl) fun _ _ => rfl,
    setpWrites_of_plain exec_setpEqBand1 encode_of_i64Operand (fun _ _ => rfl) fun _ _ => rfl,
    setpWrites_of_plain exec_setpEqBand2 encode_of_i64Operand (fun _ _ => rfl) fun _ _ => rfl,
    setpWrites_of_plain exec_setpEqBand3 encode_of_i64Operand (fun _ _ => rfl) fun _ _ => rfl,
    setpWrites_of_plain exec_setpEqBand4 encode_of_i64Operand (fun _ _ => rfl) fun _ _ => rfl,
    setpWrites_of_plain exec_setpEqBand5 encode_of_i64Operand (fun _ _ => rfl) fun _ _ => rfl,
    setpWrites_of_plain exec_setpEqLoudEn encode_of_boolOperand (fun _ _ => rfl) fun _ _ => rfl,
    setpWrites_of_plain exec_setpEqLoudRef encode_of_f64Operand (fun _ _ => rfl) fun _ _ => rfl,
    setpWrites_of_plain exec_setpVirtEn encode_of_boolOperand (fun _ _ => rfl) fun _ _ => rfl,
    setpWrites_of_knobWrite exec_setpVirtStrength fun opd v hv => encode_of_i64Operand v hv ▸ .virtStrength v,
    List.forall_mem_nil _⟩

theorem setpWrites_of_getElem? {n : Nat} {p : (BitVec 64 → Instr) × Instr} (h : knobPairs[n]? = some p) :
    SetpWrites p n :=
  setpWrites_knobPairs (p, n) (List.mem_zipIdx_iff_getElem?.2 h)

/-! ### Every command -/

/-- The four kinds of command (R82). -/
theorem instr_cases (i : Instr) :
    (∃ ch encsel opd, i = .configure ch encsel opd) ∨ (∃ n, i = .process n) ∨ IsSetp i ∨ IsGetp i := by
  cases i with
  | configure ch encsel opd => exact .inl ⟨ch, encsel, opd, rfl⟩
  | process n => exact .inr (.inl ⟨n, rfl⟩)
  | setpMasterEn | setpCompEn | setpCompRatio | setpBassEn | setpBassStrength | setpBassFreq | setpEqEn | setpEqBand0
  | setpEqBand1 | setpEqBand2 | setpEqBand3 | setpEqBand4 | setpEqBand5 | setpEqLoudEn | setpEqLoudRef | setpVirtEn
  | setpVirtStrength => exact .inr (.inr (.inl (by simp [IsSetp, knobPairs])))
  | getpMasterEn | getpCompEn | getpCompRatio | getpBassEn | getpBassStrength | getpBassFreq | getpEqEn | getpEqBand0
  | getpEqBand1 | getpEqBand2 | getpEqBand3 | getpEqBand4 | getpEqBand5 | getpEqLoudEn | getpEqLoudRef | getpVirtEn
  | getpVirtStrength => exact .inr (.inr (.inr (by simp [IsGetp, knobPairs])))

section
variable {i : Instr} {s t : State}

/-- All a SETP can answer: a refusal, or its one write. -/
theorem exec_setp_next (hi : IsSetp i) (h : exec i s = .next t) :
    t = reply s eParamRange 0#64 none ∨
      ∃ n p opd f, knobPairs[n]? = some p ∧ i = p.1 opd ∧ KnobWrite n opd f ∧ t = reply (f s) statusOk 0#64 none := by
  obtain ⟨p, hp, opd, rfl⟩ := hi
  obtain ⟨n, hn⟩ := List.mem_iff_getElem?.1 hp
  obtain ⟨write, hexec, hwrite⟩ := setpWrites_of_getElem? hn opd
  rw [hexec] at h
  rcases setKnob_next h with ⟨-, rfl⟩ | ⟨f, hf, rfl⟩
  · exact .inl rfl
  · exact .inr ⟨n, p, opd, f, hn, rfl, hwrite f hf, rfl⟩

/-- A GETP completes and changes nothing (R240). -/
theorem exec_getp_next (hi : IsGetp i) (h : exec i s = .next t) : ∃ v, t = reply s statusOk v none := by
  obtain ⟨p, hp, rfl⟩ := hi
  obtain ⟨n, hn⟩ := List.mem_iff_getElem?.1 hp
  obtain ⟨v, -, hexec⟩ := exec_getp hn s
  exact ⟨v, complete_next (hexec ▸ h)⟩

/-! ### No other command writes a knob -/

/-- The knobs are among the settings that no PROCESS writes. -/
theorem knobs_of_settings (hglob : SameGlobals s t) (hset : SameSettings s t) : t.knobs = s.knobs := by
  have hcomp := Compressor.eq_of_settings hset.comp
  have hbass := BassBoost.eq_of_settings hset.bass
  have heq := Equalizer.eq_of_settings hset.eq
  have hvirt := Virtualizer.eq_of_settings hset.virt
  rw [State.knobs, hglob.masterEn, hcomp, hbass, heq, hvirt]
  rfl

theorem exec_process_knobs {n : BitVec 64} (h : exec (.process n) s = .next t) : t.knobs = s.knobs := by
  obtain ⟨u, hglob, hset, -, _, _, _, rfl⟩ := exec_process_next h
  exact knobs_of_settings (t := u) hglob hset

theorem exec_configure_knobs {ch encsel : BitVec 8} {opd : BitVec 64}
    (h : exec (.configure ch encsel opd) s = .next t) : t.knobs = s.knobs := by
  rcases configureWith_next h with ⟨_, -, rfl⟩ | ⟨-, rfl⟩
  · rfl
  · rfl

/-- A command other than its SETP leaves an entry of the list. -/
theorem exec_keeps_knob {n : Nat} {p : (BitVec 64 → Instr) × Instr} (hn : knobPairs[n]? = some p)
    (hi : ∀ opd, i ≠ p.1 opd) (h : exec i s = .next t) : t.knobs[n]? = s.knobs[n]? := by
  rcases instr_cases i with ⟨ch, encsel, opd, rfl⟩ | ⟨m, rfl⟩ | hset | hget
  · rw [exec_configure_knobs h]
  · rw [exec_process_knobs h]
  · rcases exec_setp_next hset h with rfl | ⟨m, q, opd, f, hm, rfl, hf, rfl⟩
    · rfl
    · have hne : m ≠ n := by
        rintro rfl
        obtain rfl := Option.some.inj (hn.symm.trans hm)
        exact hi opd rfl
      exact (congrArg (·[n]?) (hf.knobs s)).trans (List.getElem?_set_ne hne)
  · obtain ⟨v, rfl⟩ := exec_getp_next hget h
    rfl

/-- Settles O24: the GETP answers its entry of the list, which the command left. -/
theorem knobsChangeOnlyBySetp : Obligations.KnobsChangeOnlyBySetp := by
  intro p hp i s t v hi h hget
  obtain ⟨n, hn⟩ := List.mem_iff_getElem?.1 hp
  obtain ⟨w, hw, hs⟩ := exec_getp hn s
  obtain ⟨w', hw', ht⟩ := exec_getp hn t
  have hwv : w = v := by
    have hreply := complete_next (hs.symm.trans hget)
    exact (congrArg Response.res (Option.some.inj (congrArg State.response hreply))).symm
  have hww : w' = w := Option.some.inj (hw'.symm.trans ((exec_keeps_knob hn hi h).trans hw))
  rw [ht, hww, hwv]
  rfl

end

/-! ### SETPs commute -/

theorem setKnob_next_getD {write : Option (State → State)} {s t : State} (h : setKnob write id s = .next t) :
    ∃ status, t = reply (write.getD id s) status 0#64 none := by
  rcases setKnob_next h with ⟨rfl, rfl⟩ | ⟨f, rfl, rfl⟩
  · exact ⟨_, rfl⟩
  · exact ⟨_, rfl⟩

/-- SETPs of two entries give the same registers in either order, whether each writes or refuses. -/
theorem SetpWrites.view_comm {p q : (BitVec 64 → Instr) × Instr} {n m : Nat} (hp : SetpWrites p n) (hq : SetpWrites q m)
    (hne : n ≠ m) {x y : BitVec 64} {s a b c d : State} (ha : exec (p.1 x) s = .next a) (hb : exec (q.1 y) a = .next b)
    (hc : exec (q.1 y) s = .next c) (hd : exec (p.1 x) c = .next d) : b.view = d.view ∧ b.sin = d.sin := by
  obtain ⟨f, hexecP, hf⟩ := hp x
  obtain ⟨g, hexecQ, hg⟩ := hq y
  obtain ⟨_, rfl⟩ := setKnob_next_getD (hexecP s ▸ ha)
  obtain ⟨_, rfl⟩ := setKnob_next_getD (hexecQ s ▸ hc)
  obtain ⟨_, rfl⟩ := setKnob_next_getD (hexecQ _ ▸ hb)
  obtain ⟨_, rfl⟩ := setKnob_next_getD (hexecP _ ▸ hd)
  refine ⟨?_, rfl⟩
  cases f with
  | none =>
    cases g with
    | none => rfl
    | some g => exact (hg g rfl).view_congr rfl
  | some f =>
    cases g with
    | none => exact (hf f rfl).view_congr rfl
    | some g =>
      calc (g (reply (f s) _ 0#64 none)).view
          = (g (f s)).view := (hg g rfl).view_congr rfl
        _ = (f (g s)).view := (hg g rfl).view_comm (hf f rfl) hne.symm s
        _ = (f (reply (g s) _ 0#64 none)).view := (hf f rfl).view_congr rfl

/-- Settles O20: the knobs are different entries of the list, so their writes commute. -/
theorem setpsOfDifferentKnobsCommute : Obligations.SetpsOfDifferentKnobsCommute := by
  intro p hp q hq hne x y s a b c d ha hb hc hd
  obtain ⟨n, hn⟩ := List.mem_iff_getElem?.1 hp
  obtain ⟨m, hm⟩ := List.mem_iff_getElem?.1 hq
  have hnm : n ≠ m := by
    rintro rfl
    exact hne (congrArg Prod.snd (Option.some.inj (hn.symm.trans hm)))
  obtain ⟨hview, hsin⟩ := (setpWrites_of_getElem? hn).view_comm (setpWrites_of_getElem? hm) hnm ha hb hc hd
  exact registers_eq_of_view hview hsin

/-! ### What a SETP leaves -/

/-- The registers that R222 keeps from every SETP. -/
structure SameAudio (s t : State) : Prop where
  comp : t.comp.fade = s.comp.fade ∧ t.comp.cur = s.comp.cur ∧ t.comp.user = s.comp.user ∧ t.comp.bp = s.comp.bp
  bass : t.bass.lp.w1 = s.bass.lp.w1 ∧ t.bass.lp.w2 = s.bass.lp.w2
  eq : t.eq.fade = s.eq.fade ∧ t.eq.interval = s.eq.interval ∧ t.eq.next = s.eq.next ∧ t.eq.loud = s.eq.loud ∧
    t.eq.pwr = s.eq.pwr ∧ t.eq.sh = s.eq.sh
  virt : t.virt.dly = s.virt.dly ∧ t.virt.last = s.virt.last ∧ t.virt.loc = s.virt.loc
  globals : t.configured = s.configured ∧ t.rate = s.rate ∧ t.enc = s.enc ∧ t.fir = s.fir ∧ t.inbox = s.inbox

theorem SameAudio.refl (s : State) : SameAudio s s :=
  ⟨⟨rfl, rfl, rfl, rfl⟩, ⟨rfl, rfl⟩, ⟨rfl, rfl, rfl, rfl, rfl, rfl⟩, ⟨rfl, rfl, rfl⟩, ⟨rfl, rfl, rfl, rfl, rfl⟩⟩

/-- None of these registers is a knob. -/
theorem sameAudio_beside (s t : State) : SameAudio s.beside t.beside ↔ SameAudio s t :=
  ⟨fun h => ⟨h.comp, h.bass, h.eq, h.virt, h.globals⟩, fun h => ⟨h.comp, h.bass, h.eq, h.virt, h.globals⟩⟩

/-- A retune leaves the filter's history (R109). -/
theorem KnobWrite.sameAudio {n : Nat} {opd : BitVec 64} {f : State → State} (h : KnobWrite n opd f) (s : State) :
    SameAudio s (f s) := by
  cases h with
  | plain _ hbeside => exact (sameAudio_beside s (f s)).1 (by rw [hbeside]; exact .refl _)
  | bassStrength =>
    rw [setBassStrength_eq]
    exact { SameAudio.refl s with bass := by cases s.configured <;> simp }
  | bassFreq =>
    rw [setBassFreq_eq]
    exact { SameAudio.refl s with bass := by cases s.configured <;> simp }
  | virtStrength => exact { SameAudio.refl s with }

/-- Settles O19, by the one write a SETP can make. -/
theorem setpTouchesNoAudioState : Obligations.SetpTouchesNoAudioState := by
  intro i s t hi h
  have haudio : SameAudio s t := by
    rcases hi with hset | hget
    · rcases exec_setp_next hset h with rfl | ⟨n, p, opd, f, -, -, hf, rfl⟩
      · exact { SameAudio.refl s with }
      · exact { hf.sameAudio s with }
    · obtain ⟨v, rfl⟩ := exec_getp_next hget h
      exact { SameAudio.refl s with }
  obtain ⟨⟨hfade, hcur, huser, hbp⟩, ⟨hw1, hw2⟩, ⟨heqFade, hinterval, hnext, hloud, hpwr, hsh⟩, ⟨hdly, hlast, hloc⟩,
    hconfigured, hrate, henc, hfir, hinbox⟩ := haudio
  exact ⟨hfade, hcur, huser, hbp, hw1, hw2, heqFade, hinterval, hnext, hloud, hpwr, hsh, fun k => by rw [hdly],
    fun k => by rw [hdly], hdly, hlast, hloc, hconfigured, hrate, henc, hfir, hinbox⟩

end Sys2Proof.Machine
end

section
/-! Errors (R270 to R275): an illegal word, the first failing check of each command, and that an error changes
nothing. -/

namespace Sys2Proof.Machine

/-- Settles O7, by the equations of `step` and `runCommand`. -/
theorem stepRefusesIllegalCommand : Obligations.StepRefusesIllegalCommand := by
  intro s cmd rest e hin hd
  rw [step_of_inbox_cons hin, runCommand_of_decode_error hd]
  rfl

/-! ### The first failing check -/

section
variable {c : Config} {ch encsel : BitVec 8} {opd : BitVec 64}

theorem configureWith_of_error {e : BitVec 8} (h : configureError c ch encsel ⟨opd⟩ = some e) (s : State) :
    configureWith c ch encsel opd s = .next (reply s e 0#64 none) := by
  rw [configureWith, h]
  rfl

theorem configureError_of_channels (h : ch.toNat ≠ 2) (rate : F64) :
    configureError c ch encsel rate = some eBadChannels :=
  if_pos fun hch => h (congrArg BitVec.toNat hch)

variable {rate : F64}

theorem configureError_of_two_channels (hch : ch.toNat = 2) :
    configureError c ch encsel rate =
      if !legalRate rate then some eBadRate
      else if encMax < encsel then some eParamRange
      else if exceeds c.dlyMax (delayLength rate virtDelayA) then some eBadRate
      else none :=
  if_neg (not_not.2 (BitVec.eq_of_toNat_eq hch))

theorem configureError_of_rate (hch : ch.toNat = 2) (h : ¬(isFinite rate = true ∧ 0 < toReal rate)) :
    configureError c ch encsel rate = some eBadRate := by
  have hrate : legalRate rate = false := Bool.eq_false_iff.2 (legalRate_iff.not.2 h)
  rw [configureError_of_two_channels hch, hrate]
  rfl

theorem configureError_of_encsel (hch : ch.toNat = 2) (hrate : legalRate rate = true) (h : 2 < encsel.toNat) :
    configureError c ch encsel rate = some eParamRange := by
  have henc : encMax < encsel := h
  rw [configureError_of_two_channels hch, hrate, if_pos henc]
  rfl

theorem configureError_of_capacity (hch : ch.toNat = 2) (hrate : legalRate rate = true) (hsel : encsel.toNat ≤ 2)
    {m : Nat} (hm : c.dlyMax = some m) (h : (m : Int) < delayLength rate virtDelayA) :
    configureError c ch encsel rate = some eBadRate := by
  have henc : ¬encMax < encsel := not_lt.2 hsel
  have hcap : exceeds c.dlyMax (delayLength rate virtDelayA) = true := by rw [hm]; exact decide_eq_true h
  rw [configureError_of_two_channels hch, hrate, if_neg henc, hcap]
  rfl

end

theorem processWith_of_not_configured (c : Config) (n : BitVec 64) {s : State} (h : s.configured = false) :
    processWith c n s = .next (reply s eNotConfigured 0#64 none) := by
  rw [processWith, h]
  rfl

theorem processWith_of_block_max {c : Config} {n : BitVec 64} {s : State} (hc : s.configured = true) {m : Nat}
    (hm : c.blockMax = some m) (h : m < n.toNat) : processWith c n s = .next (reply s eParamRange 0#64 none) := by
  have hcap : exceeds c.blockMax n.toNat = true := by rw [hm]; exact decide_eq_true (Int.ofNat_lt.2 h)
  rw [processWith, hc, hcap]
  rfl

/-- Settles O26: each check in its order, a SETP by its one cause, and the example by its channel count. -/
theorem refusalOrder : Obligations.RefusalOrder := by
  refine ⟨fun cmd s e hd => runCommand_of_decode_error hd s,
    fun c ch encsel opd s => ⟨fun hch => ?_, fun hch hrate => ?_, fun hch hfin hpos henc => ?_,
      fun hch hfin hpos henc m hm hcap => ?_⟩,
    fun c n s =>
      ⟨processWith_of_not_configured c n, fun hc m hm hlt => processWith_of_block_max hc hm hlt⟩,
    fun _ _ _ _ _ => ⟨rfl, rfl⟩, fun i s t r hi h hr => ?_, fun s sin => ?_⟩
  · exact configureWith_of_error (configureError_of_channels hch _) s
  · exact configureWith_of_error (configureError_of_rate hch hrate) s
  · exact configureWith_of_error (configureError_of_encsel hch (legalRate_iff.2 ⟨hfin, hpos⟩) henc) s
  · exact configureWith_of_error (configureError_of_capacity hch (legalRate_iff.2 ⟨hfin, hpos⟩) henc hm hcap) s
  · rcases exec_setp_next hi h with rfl | ⟨_, _, _, _, -, -, -, rfl⟩
    · cases hr
      exact .inr rfl
    · cases hr
      exact .inl rfl
  · have hd : decode 0x01000703#32 0xBFF0000000000000#64 = .ok (.configure 3#8 7#8 0xBFF0000000000000#64) := by
      decide +kernel
    rw [runCommand_of_decode_ok hd, exec_configure]
    exact configureWith_of_error (configureError_of_channels (by decide) _) s

/-! ### An error changes nothing -/

/-- The answer is OK, or it is an error that leaves the registers. -/
def OkOrUnchanged (s t : State) : Prop :=
  (∃ u res sout, t = reply u statusOk res sout) ∨ ∃ code, t = reply s code 0#64 none

theorem exec_okOrUnchanged {i : Instr} {s t : State} (h : exec i s = .next t) : OkOrUnchanged s t := by
  rcases instr_cases i with ⟨ch, encsel, opd, rfl⟩ | ⟨n, rfl⟩ | hset | hget
  · rcases configureWith_next h with ⟨e, -, rfl⟩ | ⟨-, rfl⟩
    · exact .inr ⟨e, rfl⟩
    · exact .inl ⟨_, _, _, rfl⟩
  · rcases processWith_next h with ⟨-, rfl⟩ | ⟨-, -, rfl⟩ | ⟨-, -, -, rfl⟩
    · exact .inr ⟨_, rfl⟩
    · exact .inr ⟨_, rfl⟩
    · exact .inl ⟨_, _, _, rfl⟩
  · rcases exec_setp_next hset h with rfl | ⟨_, _, _, _, -, -, -, rfl⟩
    · exact .inr ⟨_, rfl⟩
    · exact .inl ⟨_, _, _, rfl⟩
  · obtain ⟨_, rfl⟩ := exec_getp_next hget h
    exact .inl ⟨_, _, _, rfl⟩

theorem runCommand_okOrUnchanged {cmd : Command} {s t : State} (h : runCommand cmd s = .next t) :
    OkOrUnchanged s t := by
  cases hd : decode cmd.cw cmd.opd with
  | ok i => exact exec_okOrUnchanged (runCommand_of_decode_ok hd s ▸ h)
  | error e => exact .inr ⟨_, raise_next (runCommand_of_decode_error hd s ▸ h)⟩

theorem OkOrUnchanged.eq_reply {s t : State} {r : Response} (h : OkOrUnchanged s t) (hr : t.response = some r)
    (hstatus : r.status ≠ 0x00#8) : t = reply s r.status 0#64 none := by
  rcases h with ⟨_, _, _, rfl⟩ | ⟨_, rfl⟩
  · cases hr
    exact absurd rfl hstatus
  · cases hr
    rfl

/-- Settles O29: an answer other than OK is one of `OkOrUnchanged`. -/
theorem errorChangesNothing : Obligations.ErrorChangesNothing :=
  ⟨fun _ _ _ _ h => (runCommand_okOrUnchanged h).eq_reply, fun _ _ _ _ h => (exec_okOrUnchanged h).eq_reply⟩

/-! ### A second CONFIGURE -/

/-- What CONFIGURE writes it computes from the operands, the knobs, `EQ_FADE` and `EQ_LOUD`, none of which it writes
(R221). -/
theorem configureEffects_idem (c : Config) (encsel : BitVec 8) (rate : F64) (s : State) :
    configureEffects c encsel rate (configureEffects c encsel rate s) = configureEffects c encsel rate s := by
  have hcomp : configureComp c rate (configureComp c rate s.comp) = configureComp c rate s.comp := rfl
  have hbass : configureBass c rate (configureBass c rate s.bass) = configureBass c rate s.bass := rfl
  have hvirt : configureVirt c rate (configureVirt c rate s.virt) = configureVirt c rate s.virt := rfl
  have heq : configureEq c rate (configureEq c rate s.eq) = configureEq c rate s.eq := rfl
  simp only [configureEffects, hcomp, hbass, hvirt, heq]

/-- Settles O28: a refusal is the same again, and the effects are idempotent. -/
theorem configureTwiceIsOnce : Obligations.ConfigureTwiceIsOnce := by
  intro ch encsel opd s t h
  rcases configureWith_next h with ⟨e, he, rfl⟩ | ⟨hok, rfl⟩
  · exact configureWith_of_error he _
  · have hreply (u : State) : configureEffects cfg encsel ⟨opd⟩ (reply u statusOk 0#64 none) =
        reply (configureEffects cfg encsel ⟨opd⟩ u) statusOk 0#64 none := rfl
    rw [exec_configure_of_checks hok, hreply, configureEffects_idem]
    rfl

end Sys2Proof.Machine
end

section
/-! The GETPs (R241 to R257), each with its word and its answer, and the examples of the rules. -/

namespace Sys2Proof.Machine

/-- A legal operand is written, and the knob's GETP answers it (R258 (i)). -/
theorem exec_getp_of_setp {p : (BitVec 64 → Instr) × Instr} (hp : p ∈ knobPairs) {opd : BitVec 64} {s u : State}
    (h : exec (p.1 opd) s = .next (reply u statusOk 0#64 none)) :
    ∃ t, exec (p.1 opd) s = .next t ∧ exec p.2 t = .next (reply t 0x00#8 opd none) :=
  ⟨_, h, readBack p hp opd s _ _ h rfl rfl⟩

/-- Settles O21: each word selects the decoder's case of its PID, each GETP completes with its register. -/
theorem getpChainCompBass : Obligations.GetpChainCompBass := by
  refine ⟨fun opd s => ⟨decode_getpWord (pid := 0x00#8) rfl opd, exec_getpMasterEn s,
      decode_getpWord (pid := 0x10#8) rfl opd, exec_getpCompEn s, decode_getpWord (pid := 0x11#8) rfl opd,
      exec_getpCompRatio s, decode_getpWord (pid := 0x20#8) rfl opd, exec_getpBassEn s,
      decode_getpWord (pid := 0x21#8) rfl opd, exec_getpBassStrength s, decode_getpWord (pid := 0x22#8) rfl opd,
      exec_getpBassFreq s⟩,
    exec_getpMasterEn State.reset, exec_getpCompRatio State.reset, exec_getpBassFreq State.reset, fun s => ?_,
    fun s => ⟨_, exec_setpCompEn 0#64 s, rfl, rfl⟩⟩
  exact exec_getp_of_setp (p := (.setpBassStrength, .getpBassStrength)) (by simp [knobPairs])
    (exec_of_legal (exec_setpBassStrength _) (i64Operand_eq_some.2 ⟨rfl, by decide⟩) s)

/-- Settles O22, likewise. -/
theorem getpEqVirt : Obligations.GetpEqVirt := by
  refine ⟨fun opd s => ⟨decode_getpWord (pid := 0x30#8) rfl opd, exec_getpEqEn s,
      decode_getpWord (pid := 0x31#8) rfl opd, exec_getpEqBand0 s, decode_getpWord (pid := 0x32#8) rfl opd,
      exec_getpEqBand1 s, decode_getpWord (pid := 0x33#8) rfl opd, exec_getpEqBand2 s,
      decode_getpWord (pid := 0x34#8) rfl opd, exec_getpEqBand3 s, decode_getpWord (pid := 0x35#8) rfl opd,
      exec_getpEqBand4 s, decode_getpWord (pid := 0x36#8) rfl opd, exec_getpEqBand5 s,
      decode_getpWord (pid := 0x37#8) rfl opd, exec_getpEqLoudEn s, decode_getpWord (pid := 0x38#8) rfl opd,
      exec_getpEqLoudRef s, decode_getpWord (pid := 0x40#8) rfl opd, exec_getpVirtEn s,
      decode_getpWord (pid := 0x41#8) rfl opd, exec_getpVirtStrength s⟩,
    exec_getpEqLoudRef State.reset, fun s => ?_⟩
  exact exec_getp_of_setp (p := (.setpEqBand0, .getpEqBand0)) (by simp [knobPairs])
    (exec_of_legal (exec_setpEqBand0 _) (i64Operand_eq_some.2 ⟨rfl, by decide⟩) s)

end Sys2Proof.Machine
end

section
/-! PROCESS with nothing to do, with `ACTIVE = 0`, and cut in two (R205 to R211). -/

namespace Sys2Proof.Machine

/-! ### All stages off -/

theorem runFrames_off (c : Config) (adj : Stereo Int) (s : State) {words : List F64} {n : Nat}
    (h : words.length = 2 * n) : runFrames c ⟨false, false, false, false⟩ adj s words = (s, words) := by
  induction words using List.twoStepInduction generalizing n with
  | nil => rfl
  | singleton x => exact absurd h (by simp; omega)
  | cons_cons l r rest ih =>
    rw [runFrames_cons, chainFrame_off, ih (n := n - 1) (by simp at h; omega)]

section
variable {s : State} {n : Nat}

/-- A block without a compressor run has no block step (R205). -/
theorem runBlock_of_comp_off (c : Config) (n : Nat) (h : compRuns s.comp = false) :
    runBlock c n s = runFrames c (gatesOf s) ⟨0, 0⟩ s s.sin := by
  rw [runBlock, blockStep_of_not_runs c (g := gatesOf s) h]

theorem runBlock_off (c : Config) (hlen : s.sin.length = 2 * n) (hcomp : compRuns s.comp = false)
    (hb : s.bass.en = false) (hv : s.virt.en = false) (he : s.eq.en = false) : runBlock c n s = (s, s.sin) := by
  have hgates : gatesOf s = ⟨false, false, false, false⟩ := by rw [gatesOf, hcomp, hb, hv, he]
  rw [runBlock_of_comp_off c n hcomp, hgates, runFrames_off c _ s hlen]

theorem isActive_eq_false (hm : s.masterEn = true) :
    isActive s = false ↔ compRuns s.comp = false ∧ s.bass.en = false ∧ s.virt.en = false ∧ s.eq.en = false := by
  simp [isActive, hm, and_assoc]

theorem activeResult_eq_zero : activeResult s = 0#64 ↔ isActive s = false := by
  rw [activeResult]
  cases isActive s <;> decide

end

/-- Settles O34: the block puts out its input, and nothing is active after it. -/
theorem processStagesOffCopies : Obligations.ProcessStagesOffCopies := by
  intro n s hc hlen hen hb hv he hfade
  have hcomp := compRuns_eq_false.2 ⟨hen, hfade⟩
  have hactive : activeResult s = 0#64 := activeResult_eq_zero.2 (by simp [isActive, hcomp, hb, hv, he])
  rw [exec_process_of_no_fault hc (processFault_none_of_off hlen hv he), runBlock_off cfg hlen hcomp hb hv he, hactive]
  rfl

/-! ### `ACTIVE = 0` -/

/-- A block leaves every stage's enable. -/
theorem runBlock_enables (c : Config) (n : Nat) (s : State) :
    (runBlock c n s).1.comp.en = s.comp.en ∧ (runBlock c n s).1.bass.en = s.bass.en ∧
      (runBlock c n s).1.virt.en = s.virt.en ∧ (runBlock c n s).1.eq.en = s.eq.en := by
  have hset := runBlock_settings c n s
  exact ⟨congrArg Prod.fst hset.comp, congrArg Prod.fst hset.bass, congrArg Prod.fst hset.virt,
    congrArg Prod.fst hset.eq⟩

/-- Settles O37: `ACTIVE` is of the registers after the block, which keeps every enable. -/
theorem activeZeroMeansSkipped : Obligations.ActiveZeroMeansSkipped := by
  intro n s t r hexec hr hstatus hres hm
  rcases processWith_next hexec with ⟨-, rfl⟩ | ⟨-, -, rfl⟩ | ⟨-, -, hfault, rfl⟩
  · cases hr
    exact absurd hstatus (by decide)
  · cases hr
    exact absurd hstatus (by decide)
  · cases hr
    have hmaster := (runBlock_globals cfg n.toNat s).masterEn.trans hm
    obtain ⟨hcomp, hb, hv, he⟩ := (isActive_eq_false hmaster).1 (activeResult_eq_zero.1 hres)
    obtain ⟨hen, hfade⟩ := compRuns_eq_false.1 hcomp
    obtain ⟨henKept, hbKept, hvKept, heKept⟩ := runBlock_enables cfg n.toNat s
    rw [henKept] at hen
    rw [hbKept] at hb
    rw [hvKept] at hv
    rw [heKept] at he
    refine ⟨hb, hv, he, hen, hfade, fun hfade0 => ?_⟩
    obtain ⟨hlen, -⟩ := processFault_none.1 hfault
    exact congrArg (fun p => some p.2) (runBlock_off cfg hlen (compRuns_eq_false.2 ⟨hen, hfade0⟩) hb hv he)

/-! ### A stream in two blocks -/

/-- The state with another port: the block `SIN` and the last answer. -/
def State.withPort (s : State) (sin : List F64) (response : Option Response) : State :=
  { s with sin := sin, response := response }

theorem compStage_eq (g : Gates) (adj : Stereo Int) (s : State) (l r : F64) :
    compStage g adj s l r =
      (let p := if g.comp then compFrame adj s.comp l r else (s.comp, l, r)
       ({ s with comp := p.1 }, p.2)) := by
  unfold compStage; split <;> rfl

section
variable (c : Config) (g : Gates) (adj : Stereo Int) (s : State) (sin : List F64) (response : Option Response)

/-- No frame reads or writes the port. -/
theorem chainFrame_withPort (l r : F64) :
    chainFrame c g adj (s.withPort sin response) l r =
      ((chainFrame c g adj s l r).1.withPort sin response, (chainFrame c g adj s l r).2) := by
  simp only [chainFrame, compStage_eq, bassStage_eq, virtStage_eq, eqStage_eq]
  rfl

theorem runFrames_withPort (words : List F64) :
    runFrames c g adj (s.withPort sin response) words =
      ((runFrames c g adj s words).1.withPort sin response, (runFrames c g adj s words).2) := by
  induction words using List.twoStepInduction generalizing s with
  | nil => rfl
  | singleton x => rfl
  | cons_cons l r rest ih => simp only [runFrames_cons, chainFrame_withPort, ih]

end

theorem StateOk.withPort {s : State} (h : StateOk s) (sin : List F64) (response : Option Response) :
    StateOk (s.withPort sin response) :=
  { h with }

/-- The frames `words` of a block whose compressor is off, run from `s`. -/
def plainFrames (s : State) (words : List F64) : State × List F64 := runFrames cfg (gatesOf s) ⟨0, 0⟩ s words

section
variable {s : State}

theorem runBlock_withPort (h : compRuns s.comp = false) (n : Nat) (words : List F64) (response : Option Response) :
    runBlock cfg n (s.withPort words response) =
      ((plainFrames s words).1.withPort words response, (plainFrames s words).2) :=
  (runBlock_of_comp_off (s := s.withPort words response) cfg n h).trans
    (runFrames_withPort cfg (gatesOf s) ⟨0, 0⟩ s words response words)

/-- A state whose next block runs frame by frame alone: configured, in order, the compressor off. -/
structure PlainReady (s : State) : Prop where
  ok : StateOk s
  configured : s.configured = true
  comp : compRuns s.comp = false

/-- The frames leave such a state, and the gates. -/
theorem PlainReady.plainFrames (h : PlainReady s) (words : List F64) :
    PlainReady (plainFrames s words).1 ∧ gatesOf (plainFrames s words).1 = gatesOf s := by
  have hblock := congrArg Prod.fst (runBlock_withPort h.comp 0 words s.response)
  have hok := runBlock_ok (h.ok.withPort words s.response) cfg 0
  have hglob := runBlock_globals cfg 0 (s.withPort words s.response)
  have hoff := (runBlock_offStagesKept cfg 0 (s.withPort words s.response)).comp h.comp
  obtain ⟨-, hb, hv, he⟩ := runBlock_enables cfg 0 (s.withPort words s.response)
  rw [hblock] at hok hglob hoff hb hv he
  have hcomp : (Machine.plainFrames s words).1.comp = s.comp := hoff
  have hrun : compRuns (Machine.plainFrames s words).1.comp = compRuns s.comp := by rw [hcomp]
  refine ⟨⟨{ hok with }, hglob.configured.trans h.configured, hrun.trans h.comp⟩, ?_⟩
  rw [gatesOf, hrun]
  exact congr (congr (congrArg (Gates.mk (compRuns s.comp)) hb) hv) he

/-- The answer of such a PROCESS. -/
theorem PlainReady.exec_process (h : PlainReady s) {n : BitVec 64} {words : List F64}
    (hlen : words.length = 2 * n.toNat) (response : Option Response) :
    exec (.process n) (s.withPort words response) =
      .next ((Machine.plainFrames s words).1.withPort []
        (some ⟨0x00#8, activeResult (Machine.plainFrames s words).1, some (Machine.plainFrames s words).2⟩)) := by
  have hok := h.ok.withPort words response
  rw [exec_process_of_no_fault (s := s.withPort words response) h.configured (hok.processFault_none hlen),
    runBlock_withPort h.comp]
  rfl

/-- The frames of two blocks are those of the first, then those of the second from where the first ended (R207). -/
theorem PlainReady.plainFrames_append (h : PlainReady s) {n : Nat} {x : List F64} (hlen : x.length = 2 * n)
    (y : List F64) :
    Machine.plainFrames s (x ++ y) =
      ((Machine.plainFrames (Machine.plainFrames s x).1 y).1,
        (Machine.plainFrames s x).2 ++ (Machine.plainFrames (Machine.plainFrames s x).1 y).2) := by
  have hgates := (h.plainFrames x).2
  rw [Machine.plainFrames, Machine.plainFrames, hgates]
  exact runFrames_append cfg (gatesOf s) ⟨0, 0⟩ s hlen y

end

/-- Settles O36: each block's frames by `PlainReady.exec_process`, the frames of the whole by `plainFrames_append`. -/
theorem processSplits : Obligations.ProcessSplits := by
  intro a b x y s hok hc hen hfade hx hy hlt
  have hs : PlainReady s := ⟨hok, hc, compRuns_eq_false.2 ⟨hen, hfade⟩⟩
  have hxy : (x ++ y).length = 2 * (a + b).toNat := by
    rw [List.length_append, hx, hy, BitVec.toNat_add_of_lt hlt, Nat.mul_add]
  have hwhole := hs.exec_process hxy s.response
  rw [hs.plainFrames_append hx y] at hwhole
  exact ⟨_, _, _, _, _, _, _, hs.exec_process hx s.response, rfl, (hs.plainFrames x).1.exec_process hy _, rfl,
    hwhole, rfl, rfl⟩

end Sys2Proof.Machine
end
